-- ==== Sys2Proof/Word.lean ====
section
/-! DEFINITION. The two bit-vector widths of the core: every register is 32 bits wide and every buffer element is one
8-bit byte (00_scope.md R10). -/

namespace Sys2Proof

/-- One buffer element (R10). -/
abbrev Byte := BitVec 8

/-- One register, or one command word (R10, R90). -/
abbrev Word := BitVec 32

end Sys2Proof
end

