-- ==== Sys2Proof/Config.lean ====
section
/-! DEFINITION. What an implementation fixes (00_scope.md R9) and the free values the spec leaves open
(93_implementation_defined.md part 2). A constant declared `opaque` has no body: no proof can see its value, so what is
proved holds for every value. -/

namespace Sys2Proof

/-- CASE_RULE: how the four tag predicates read the case of a byte (R9, R126). -/
inductive CaseRule where
  | asciiClass
  | bit5
deriving DecidableEq, Repr, Inhabited

/-- TEXT_LEN_UNIT: how TFTEXT counts the length of its text (R9, R124). -/
inductive TextLenUnit where
  | chars
  | bytes
deriving DecidableEq, Repr, Inhabited

namespace Config

/-- The implementation's choice of buffer size (R9, D3); `bufSize` maps it onto the legal sizes. -/
opaque sizeChoice : Nat

/-- BUF_SIZE: the size in bytes of IBUF and of DBUF (R9). Every legal size, 12 to 2^32 - 13, is the value of some
choice, and every choice gives a legal size. DESIGN CHOICE, safe (log 2). -/
def bufSize : Nat := (sizeChoice + 52) % (2 ^ 32 - 24) + 12

/-- CASE_RULE (R9, D23: open). Log 3. -/
opaque caseRule : CaseRule

/-- TEXT_LEN_UNIT (R9, D21: open). Log 3. -/
opaque textLenUnit : TextLenUnit

/-- The implementation's choice for the texts with a non-ASCII character that are counted as alphabetic (D22). -/
opaque nonAsciiAlphabetic : List Byte → Bool

/-- NONASCII_NONALPHA: whether TFTEXT reports "non-alphabetic" for a text that holds non-ASCII characters (R9, R124,
D22: open). Log 3. -/
def nonAsciiNonAlpha (t : List Byte) : Bool := !nonAsciiAlphabetic t

/-- The byte at an offset of a buffer that nothing has written since reset, in the array that `seed` names (R262, P6:
an arbitrary array, chosen at reset, stable until written). Log 1. -/
opaque resetByte (seed offset : Nat) : Byte

/-- The n-th free draw: what a host read of an unspecified value returns while BUSY (R264, P5). Log 4. -/
opaque freeWord : Nat → Word

/-- How many host steps go before the completion of the command accepted at the n-th draw: any finite number
(R21, R267, P7). Log 6. -/
opaque freeDelay : Nat → Nat

end Config

end Sys2Proof
end

