-- ==== Sys2Proof/Syntax.lean ====
section
/-! DEFINITION. The commands of the core, one constructor for each row of spec/opcode_table.json (30_encoding.md R91).
A command word has no register and no immediate fields (R90): every operand is implicit (R93), so no constructor has an
argument. -/

namespace Sys2Proof

/-- The six commands (R91). -/
inductive Instr where
  /-- TFRAW, OPC 0x01: set the type from raw bytes (40_type_tag.md R121). -/
  | tfraw
  /-- TFTEXT, OPC 0x02: set the type from checked text (40_type_tag.md R123). -/
  | tftext
  /-- ENCODE, OPC 0x03: build a chunk (41_frame.md R161). -/
  | encode
  /-- DECODE, OPC 0x04: parse and validate a frame (41_frame.md R163). -/
  | decode
  /-- SERIALIZE, OPC 0x05: write the chunk out as a frame (41_frame.md R170). -/
  | serialize
  /-- CRC, OPC 0x06: checksum a buffer (42_crc.md R205). -/
  | crc
deriving DecidableEq, Repr

end Sys2Proof
end

