-- ==== Sys2Proof/Machine/Bus.lean ====
section
/-! DEFINITION. The host port: the address spaces, the register map, the bus accesses and their legality
(20_memory.md R60 to R67, 10_state.md R23), and the steps a host program is made of (70_reset_and_hazards.md R268,
30_encoding.md R99 and R100). -/

namespace Sys2Proof.Machine

/-- The four address spaces (R60). -/
inductive Space where
  | reg
  | ibuf
  | dbuf
  | obuf
deriving DecidableEq, Repr

/-- The 2-bit selector SPACE of a space (R60). -/
def Space.selector : Space → BitVec 2
  | .reg => 0
  | .ibuf => 1
  | .dbuf => 2
  | .obuf => 3

/-- The space a selector names; every selector names one (R60). -/
def Space.ofSelector (sel : BitVec 2) : Space :=
  if sel = 0 then .reg else if sel = 1 then .ibuf else if sel = 2 then .dbuf else .obuf

/-- The size of a space in bytes (R60). -/
def Space.size : Space → Nat
  | .reg => 0x3C
  | .ibuf => Config.bufSize
  | .dbuf => Config.bufSize
  | .obuf => Config.bufSize + 12

/-- The two access widths (R64). -/
inductive Width where
  | w8
  | w32
deriving DecidableEq, Repr

/-- The fifteen registers (10_state.md R23). -/
inductive Reg where
  | cap
  | cmd
  | status
  | inLen
  | argType
  | type
  | typeProps
  | textErr
  | crcResult
  | chLength
  | chType
  | chCrc
  | outLen
  | info0
  | info1
deriving DecidableEq, Repr

/-- The byte offset of a register in REG (R23). -/
def Reg.offset : Reg → Word
  | .cap => 0x00
  | .cmd => 0x04
  | .status => 0x08
  | .inLen => 0x0C
  | .argType => 0x10
  | .type => 0x14
  | .typeProps => 0x18
  | .textErr => 0x1C
  | .crcResult => 0x20
  | .chLength => 0x24
  | .chType => 0x28
  | .chCrc => 0x2C
  | .outLen => 0x30
  | .info0 => 0x34
  | .info1 => 0x38

/-- The register at a byte offset of REG, if there is one: the word-aligned offsets 0x00 to 0x38 (R23, R39, R65). -/
def Reg.ofOffset (off : Word) : Option Reg :=
  match off.toNat with
  | 0x00 => some .cap
  | 0x04 => some .cmd
  | 0x08 => some .status
  | 0x0C => some .inLen
  | 0x10 => some .argType
  | 0x14 => some .type
  | 0x18 => some .typeProps
  | 0x1C => some .textErr
  | 0x20 => some .crcResult
  | 0x24 => some .chLength
  | 0x28 => some .chType
  | 0x2C => some .chCrc
  | 0x30 => some .outLen
  | 0x34 => some .info0
  | 0x38 => some .info1
  | _ => none

/-- The registers of which a host read is unspecified as a whole while BUSY (R264). STATUS is not among them: only two
of its fields are unspecified (`State.statusWhileBusy`). -/
def Reg.unspecifiedWhileBusy : Reg → Bool
  | .cap => false
  | .cmd => false
  | .status => false
  | .inLen => false
  | .argType => false
  | .type => true
  | .typeProps => true
  | .textErr => true
  | .crcResult => true
  | .chLength => true
  | .chType => true
  | .chCrc => true
  | .outLen => true
  | .info0 => true
  | .info1 => true

/-- One host access: MemRead(space, off, w) or MemWrite(space, off, w, v) (R64). A write of width 8 stores v[7:0]
(R66). -/
inductive Access where
  | read (space : Space) (off : Word) (width : Width)
  | write (space : Space) (off : Word) (width : Width) (v : Word)
deriving DecidableEq, Repr

/-- The space an access names. -/
def Access.space : Access → Space
  | .read sp _ _ => sp
  | .write sp _ _ _ => sp

/-- The byte offset an access names. -/
def Access.off : Access → Word
  | .read _ off _ => off
  | .write _ off _ _ => off

/-- The width of an access. -/
def Access.width : Access → Width
  | .read _ _ w => w
  | .write _ _ w _ => w

/-- Which accesses are legal, in the words of R65 and R66: in REG, 32 bits wide at a multiple of 4 that is at most
0x38; in a buffer, 8 bits wide below the buffer's size. -/
def Space.legal (sp : Space) (w : Width) (off : Nat) : Bool :=
  match sp, w with
  | .reg, .w32 => off % 4 == 0 && decide (off ≤ 0x38)
  | .reg, .w8 => false
  | .ibuf, .w8 => decide (off < Space.ibuf.size)
  | .dbuf, .w8 => decide (off < Space.dbuf.size)
  | .obuf, .w8 => decide (off < Space.obuf.size)
  | .ibuf, .w32 => false
  | .dbuf, .w32 => false
  | .obuf, .w32 => false

/-- Whether an access is legal (R65, R66); an access that is not gets BUSERR. -/
def Access.legal (a : Access) : Bool := a.space.legal a.width a.off.toNat

/-- What the host gets back for an access (R64): OK with the data of a read, OK for a write, or BUSERR. -/
inductive Response where
  | okWord (v : Word)
  | okByte (b : Byte)
  | ok
  | busErr
deriving DecidableEq, Repr

/-- One step of a host program: an access, one turn of POLL's loop (R100), or the reset event (R260, R268). -/
inductive HostOp where
  | access (a : Access)
  | poll
  | reset
deriving DecidableEq, Repr

/-- One line of host assembly (R99, R100). -/
inductive AsmLine where
  /-- `WR32 <reg>, <v32>`. -/
  | wr32 (r : Reg) (v : Word)
  /-- `RD32 <reg>`. -/
  | rd32 (r : Reg)
  /-- `WR8 IBUF[<off>], <v8>`. -/
  | wr8 (off : Word) (v : Byte)
  /-- `RD8 <buf>[<off>]`, where `<buf>` is IBUF, DBUF or OBUF. -/
  | rd8 (buf : Space) (off : Word)
  /-- `<MNEMONIC>`: start a command. -/
  | start (i : Instr)
  /-- `POLL`. -/
  | poll
  /-- `EXEC <MNEMONIC>`. -/
  | exec (i : Instr)
  /-- `LOADB "<ascii text>"`, the text given as its character codes. -/
  | loadText (codes : List Byte)
  /-- `LOADB {b_0, ...}`. -/
  | loadBytes (bytes : List Byte)
  /-- `EXPECT <reg>, <v32>`. -/
  | expect (r : Reg) (v : Word)
deriving DecidableEq, Repr

end Sys2Proof.Machine
end

