-- ==== Sys2Proof/WellFormed.lean ====
section
/-! DEFINITION. Which raw command words are commands (30_encoding.md R90, R91, R94), and which lines of host assembly are
lines (R99, R100). A term of `Instr` has no operand, so nothing in it can be ill-formed. -/

namespace Sys2Proof

/-- A raw command word cut into the two fields of R90. -/
structure Command where
  /-- Bits 7:0. -/
  opc : Byte
  /-- Bits 31:8, which must be 0. -/
  rsvd : BitVec 24
deriving DecidableEq, Repr

/-- The word of a raw command (R90). -/
def Command.word (c : Command) : Word := c.rsvd ++ c.opc

/-- R91: a command word matches a row exactly, with RSVD = 0 and OPC one of 0x01 to 0x06. -/
def Command.wellFormed (c : Command) : Bool :=
  c.rsvd == 0 && (decide (0x01 ≤ c.opc.toNat) && decide (c.opc.toNat ≤ 0x06))

/-- A command has no register and no immediate fields (R90), so every `Instr` is well-formed. -/
def Instr.wellFormed : Instr → Bool
  | .tfraw => true
  | .tftext => true
  | .encode => true
  | .decode => true
  | .serialize => true
  | .crc => true

/-- Whether a character code may stand in the text form of LOADB (R100): 0x20 to 0x7E. -/
def asmCharOk (c : Byte) : Bool := decide (0x20 ≤ c.toNat) && decide (c.toNat ≤ 0x7E)

/-- Which lines R99 and R100 admit: `RD8` names a buffer, not REG; the text of `LOADB` holds codes 0x20 to 0x7E only; a
loaded sequence has a 32-bit length. -/
def Machine.AsmLine.wellFormed : Machine.AsmLine → Bool
  | .wr32 _ _ => true
  | .rd32 _ => true
  | .wr8 _ _ => true
  | .rd8 buf _ => decide (buf ≠ .reg)
  | .start _ => true
  | .poll => true
  | .exec _ => true
  | .loadText codes => codes.all asmCharOk && decide (codes.length < 2 ^ 32)
  | .loadBytes bytes => decide (bytes.length < 2 ^ 32)
  | .expect _ _ => true

end Sys2Proof
end

