-- ==== Sys2Proof/Decode.lean ====
section
/-! DEFINITION. The decoder of the command word (30_encoding.md R92), total on the 2^32 words and rejecting by name, and
after it the encoder, written from the opcode map (R90, R91). -/

namespace Sys2Proof

/-- Why a word selects no command: the two illegal spaces of R94. The machine completes such a word with ILLEGAL_CMD
(R241); it is no stop. -/
inductive DecodeReject where
  /-- RSVD, bits 31:8, is not 0. -/
  | reservedNotZero
  /-- RSVD is 0 and OPC is 0x00 or 0x07 to 0xFF. -/
  | noSuchOpcode
deriving DecidableEq, Repr

/-- The field OPC of a command word: bits 7:0 (R90). -/
def opcField (w : Word) : Byte := w.extractLsb' 0 8

/-- The field RSVD of a command word: bits 31:8 (R90). -/
def rsvdField (w : Word) : BitVec 24 := w.extractLsb' 8 24

/-- R92, in its order: RSVD first, then OPC. -/
def decode (w : Word) : Except DecodeReject Instr :=
  if rsvdField w ≠ 0 then .error .reservedNotZero
  else if opcField w = 0x01 then .ok .tfraw
  else if opcField w = 0x02 then .ok .tftext
  else if opcField w = 0x03 then .ok .encode
  else if opcField w = 0x04 then .ok .decode
  else if opcField w = 0x05 then .ok .serialize
  else if opcField w = 0x06 then .ok .crc
  else .error .noSuchOpcode

/-- The OPC value of a command (R91). -/
def opcodeOf : Instr → Byte
  | .tfraw => 0x01
  | .tftext => 0x02
  | .encode => 0x03
  | .decode => 0x04
  | .serialize => 0x05
  | .crc => 0x06

/-- The word of a command: OPC in bits 7:0 and 0 in bits 31:8 (R90, R100: zext_32(OPC)). -/
def encode (i : Instr) : Word := (0 : BitVec 24) ++ opcodeOf i

/-- The instruction the decoder reads from a word of the opcode table. A command is one 32-bit word written to CMD and
no command has any other length (R90, R95), so bits above bit 31 select nothing; bits above `nbits` are 0. -/
def decodeTableWord (nbits w : Nat) : Option Instr :=
  if w % 2 ^ nbits < 2 ^ 32 then (decode (BitVec.ofNat 32 (w % 2 ^ nbits))).toOption else none

end Sys2Proof
end

