-- ==== Sys2Proof/Machine/State.lean ====
section
/-! DEFINITION. The state of the core (10_state.md R22, R23, R43), the model's own fields beside it, the stops, and the
state after reset (70_reset_and_hazards.md R260, R262). -/

namespace Sys2Proof.Machine

/-- The status codes of STATUS.ERR (60_exceptions.md R230). The reserved values 0xA to 0xF are never produced, so the
type has none of them (P14). -/
inductive StatusCode where
  | ok
  | bufferTooShort
  | lengthTooLarge
  | incorrectLength
  | crcFieldSize
  | crcMismatch
  | validation
  | inLenRange
  | noChunk
  | illegalCmd
deriving DecidableEq, Repr

/-- The stored fields of STATUS (10_state.md R26). TYPE_EQ is combinational and never stored. -/
structure Status where
  /-- Bit 0: 1 from acceptance to completion. -/
  busy : Bool
  /-- Bit 1: 1 after a completion, until the next acceptance. -/
  done : Bool
  /-- Bit 2: sticky, a host write arrived while BUSY and was dropped. -/
  werr : Bool
  /-- Bit 3: the chunk slot holds a chunk. -/
  chValid : Bool
  /-- Bits 11:8: the code of the last completion; OK while BUSY. -/
  err : StatusCode
deriving DecidableEq, Repr

/-- One byte buffer: IBUF, DBUF or OBUF (R22, 20_memory.md R60). `cells` lists written bytes by offset, in the canonical
form `Memory.wf`; an offset it does not list reads as the free byte that `seed` names (R262, log 1). -/
structure Memory where
  /-- Which arbitrary array the last reset chose for this buffer. -/
  seed : Nat
  /-- Offset and byte, offsets strictly rising. -/
  cells : List Host.Cell
deriving DecidableEq, Repr

/-- The whole state: R22's registers, CUR_CMD and three byte arrays, then the model's own fields. -/
structure State where
  /-- STATUS, offset 0x08 (R26). -/
  status : Status
  /-- IN_LEN, offset 0x0C (R28). -/
  inLen : Word
  /-- ARG_TYPE, offset 0x10 (R29). -/
  argType : Word
  /-- TYPE, called TREG, offset 0x14 (R30). -/
  tReg : Word
  /-- TEXT_ERR, offset 0x1C (R32). -/
  textErr : Word
  /-- CRC_RESULT, offset 0x20 (R33). -/
  crcResult : Word
  /-- CH_LENGTH, offset 0x24 (R34). -/
  chLength : Word
  /-- CH_TYPE, offset 0x28 (R35). -/
  chType : Word
  /-- CH_CRC, offset 0x2C (R36). -/
  chCrc : Word
  /-- OUT_LEN, offset 0x30 (R37). -/
  outLen : Word
  /-- INFO0, offset 0x34 (R38). -/
  info0 : Word
  /-- INFO1, offset 0x38 (R38). -/
  info1 : Word
  /-- CUR_CMD, hidden (R43). -/
  curCmd : Word
  /-- IBUF, BUF_SIZE bytes (20_memory.md R61). -/
  ibuf : Memory
  /-- DBUF, BUF_SIZE bytes (20_memory.md R62). -/
  dbuf : Memory
  /-- OBUF, BUF_SIZE + 12 bytes (20_memory.md R63). -/
  obuf : Memory
  /-- The model's own: the host steps still to be made, in program order. DESIGN CHOICE (log 7). -/
  pending : List HostOp
  /-- The model's own: the responses the host has got, newest first. DESIGN CHOICE (log 7). -/
  responses : List Response
  /-- The model's own: how many host steps go before the completion of the command in progress. DESIGN CHOICE, safe
  (log 6). -/
  hostFirst : Nat
  /-- The model's own: how many free draws have been made. DESIGN CHOICE, safe (log 5). -/
  draws : Nat
deriving DecidableEq, Repr

/-- Why the machine stops with a fault. -/
inductive Fault where
  /-- Raised by SERIALIZE alone (`State.engineRange`), with CH_VALID = 1 and CH_LENGTH > BUF_SIZE, where the engine would
  read DBUF at an offset that does not exist (20_memory.md R60, R71). 10_state.md R41 rules such states out and no run
  reaches one. DEDUCED, safe (log 9). -/
  | bufferRange
deriving DecidableEq, Repr

/-- Why the machine has no meaning for an instruction. -/
inductive Refusal where
  /-- Raised by an arm of `exec` whose instruction has no meaning yet; no arm does. Safe. -/
  | notModelled (mnemonic : String)
deriving DecidableEq, Repr

/-- The machine right after reset: every register at the value of 10_state.md R23 and 70_reset_and_hazards.md R260, the
buffers unspecified (R262). The host's program is not loaded (log 7); each buffer has an array of its own and three
draws are counted for them (log 1, log 5). -/
def State.reset : State where
  status := { busy := false, done := false, werr := false, chValid := false, err := .ok }
  inLen := 0
  argType := 0
  tReg := 0
  textErr := 0
  crcResult := 0
  chLength := 0
  chType := 0
  chCrc := 0
  outLen := 0
  info0 := 0
  info1 := 0
  curCmd := 0
  ibuf := { seed := 0, cells := [] }
  dbuf := { seed := 1, cells := [] }
  obuf := { seed := 2, cells := [] }
  pending := []
  responses := []
  hostFirst := 0
  draws := 3

end Sys2Proof.Machine
end

