-- ==== Sys2Proof/Machine/Ops.lean ====
section
/-! DEFINITION. The named operations over buffers and registers: reading and writing one buffer byte and a range of
them, accepting a command (10_state.md R21), completing it (60_exceptions.md R232), and the reset event (R260). -/

namespace Sys2Proof.Machine

/-! ## Buffers -/

/-- What an offset that a buffer does not list reads as: the byte of the arbitrary array chosen at the last reset
(R262, P6). Log 1. -/
def Memory.unlisted (m : Memory) (a : Nat) : Byte := Config.resetByte m.seed a

/-- The byte that a list of cells holds at an offset, if it lists one. -/
def cellsFind : List Host.Cell → Nat → Option Byte
  | [], _ => none
  | c :: cs, a => if c.1 = a then some c.2 else cellsFind cs a

/-- Put a byte at an offset, keeping the offsets strictly rising. -/
def cellsPut : List Host.Cell → Nat → Byte → List Host.Cell
  | [], a, v => [(a, v)]
  | c :: cs, a, v =>
    if a < c.1 then (a, v) :: c :: cs
    else if a = c.1 then (a, v) :: cs
    else c :: cellsPut cs a v

/-- Remove every entry of an offset. -/
def cellsDrop : List Host.Cell → Nat → List Host.Cell
  | [], _ => []
  | c :: cs, a => if c.1 = a then cellsDrop cs a else c :: cellsDrop cs a

/-- Read one byte of a buffer. -/
def Memory.read (m : Memory) (a : Nat) : Byte := (cellsFind m.cells a).getD (m.unlisted a)

/-- Write one byte of a buffer, in the canonical form: the byte an unlisted offset reads as is not listed. -/
def Memory.write (m : Memory) (a : Nat) (v : Byte) : Memory :=
  { m with cells := if v = m.unlisted a then cellsDrop m.cells a else cellsPut m.cells a v }

/-- The canonical form: offsets strictly rising, and no entry equal to what an unlisted offset reads as. -/
abbrev Memory.wf (m : Memory) : Prop :=
  m.cells.Pairwise (fun c d => c.1 < d.1) ∧ ∀ c ∈ m.cells, c.2 ≠ m.unlisted c.1

/-- Only offsets below a size are listed. -/
abbrev Memory.below (m : Memory) (size : Nat) : Prop := ∀ c ∈ m.cells, c.1 < size

/-- The byte sequence `m[a..a+n)` (00_scope.md R11). -/
def Memory.slice (m : Memory) (a : Nat) : Nat → List Byte
  | 0 => []
  | n + 1 => m.read a :: Memory.slice m (a + 1) n

/-- Write a byte sequence from an offset up, one byte at a time (20_memory.md R70). -/
def Memory.writeSeq (m : Memory) (a : Nat) : List Byte → Memory
  | [] => m
  | v :: vs => Memory.writeSeq (m.write a v) (a + 1) vs

/-! ## The command lifecycle -/

/-- The changes of an acceptance (R21): the word is latched into CUR_CMD, BUSY := 1, DONE := 0, ERR := 0. -/
def State.latch (s : State) (w : Word) : State :=
  { s with curCmd := w, status := { s.status with busy := true, done := false, err := .ok } }

/-- Acceptance of a command word (R21), with the free number of host steps that go before its completion
(R267, P7; log 6). -/
def State.accept (s : State) (w : Word) : State :=
  { s.latch w with hostFirst := Config.freeDelay s.draws, draws := s.draws + 1 }

/-- `complete(code, i0, i1)`: the last action of every completion (R232). -/
def State.complete (s : State) (code : StatusCode) (i0 i1 : Word) : State :=
  { s with
    status := { s.status with busy := false, done := true, err := code }
    info0 := i0
    info1 := i1 }

/-- STATUS.CH_VALID <- v. -/
def State.setChValid (s : State) (v : Bool) : State := { s with status := { s.status with chValid := v } }

/-- STATUS.WERR <- v. -/
def State.setWerr (s : State) (v : Bool) : State := { s with status := { s.status with werr := v } }

/-- The chunk slot takes a chunk of length L, type T, data D and checksum C, and CH_VALID := 1 (10_state.md R41; R161
and R163 write it so). -/
def State.setSlot (s : State) (len type crc : Word) (data : List Byte) : State :=
  { s with
    chLength := len
    chType := type
    chCrc := crc
    dbuf := s.dbuf.writeSeq 0 data
    status := { s.status with chValid := true } }

/-- The completion of an illegal command word: ILLEGAL_CMD with INFO0 = the word, and no other change (R94, R241). -/
def State.illegalCmd (s : State) : State := s.complete .illegalCmd s.curCmd 0

/-- An engine access to the first n bytes of a buffer of a size: an offset that does not exist is a fault
(20_memory.md R60, R71; log 9). -/
def State.engineRange (n size : Nat) (after : Host.Outcome State Fault Refusal) : Host.Outcome State Fault Refusal :=
  if n ≤ size then after else .fault .bufferRange

/-! ## The reset event -/

/-- Reset (R260 to R262): every register at its reset value, each buffer a fresh arbitrary array; a command in progress
is aborted. The host's remaining program and its responses are not the core's and stay (log 10). -/
def State.resetEvent (s : State) : State :=
  { State.reset with
    ibuf := { seed := s.draws, cells := [] }
    dbuf := { seed := s.draws + 1, cells := [] }
    obuf := { seed := s.draws + 2, cells := [] }
    pending := s.pending
    responses := s.responses
    draws := s.draws + 3 }

end Sys2Proof.Machine
end

