-- ==== Sys2Proof/Machine/Operands.lean ====
section
/-! DEFINITION. The operand forms: the big-endian packing of four bytes in a 32-bit value (00_scope.md R13,
10_state.md R42, 20_memory.md R68), and the implicit operand IBUF[0..IN_LEN) with its range check
(60_exceptions.md R239). -/

namespace Sys2Proof.Machine

/-- `be32` of a 4-byte sequence: s[0]·2^24 + s[1]·2^16 + s[2]·2^8 + s[3] (R13). Used on 4-byte sequences only
(log 16). -/
def be32 (s : List Byte) : Word := s.getD 0 0 ++ s.getD 1 0 ++ s.getD 2 0 ++ s.getD 3 0

/-- `bytes32` of a 32-bit value: [v[31:24], v[23:16], v[15:8], v[7:0]] (R13). -/
def bytes32 (v : Word) : List Byte :=
  [v.extractLsb' 24 8, v.extractLsb' 16 8, v.extractLsb' 8 8, v.extractLsb' 0 8]

/-- The byte sequence IBUF[0..IN_LEN) that TFTEXT, ENCODE, DECODE and CRC read; none when IN_LEN > BUF_SIZE, which they
find before they read any byte (R239). -/
def State.input (s : State) : Option (List Byte) :=
  if s.inLen.toNat > Config.bufSize then none else some (s.ibuf.slice 0 s.inLen.toNat)

end Sys2Proof.Machine
end

