-- ==== Sys2Proof/Machine/Flags.lean ====
section
/-! DEFINITION. The status flags and everything computed from registers by combinational logic: the reason mask of
TFTEXT (40_type_tag.md R124), the four tag predicates (R126 to R130), TYPE_PROPS (10_state.md R31), TYPE_EQ
(40_type_tag.md R132), the status code numbers (60_exceptions.md R230) and the STATUS word (10_state.md R26). -/

namespace Sys2Proof.Machine

/-! ## Characters -/

/-- An uppercase ASCII letter, 0x41 to 0x5A. -/
def asciiUpper (b : Byte) : Bool := decide (0x41 ≤ b.toNat) && decide (b.toNat ≤ 0x5A)

/-- A lowercase ASCII letter, 0x61 to 0x7A. -/
def asciiLower (b : Byte) : Bool := decide (0x61 ≤ b.toNat) && decide (b.toNat ≤ 0x7A)

/-- `letter(b)` of R124. -/
def letter (b : Byte) : Bool := asciiUpper b || asciiLower b

/-- A byte of a non-ASCII character: `b >= 0x80` (R124). -/
def nonAsciiByte (b : Byte) : Bool := decide (0x80 ≤ b.toNat)

/-- A byte that continues a UTF-8 character: 0x80 to 0xBF (R124). -/
def continuesChar (b : Byte) : Bool := decide (0x80 ≤ b.toNat) && decide (b.toNat ≤ 0xBF)

/-! ## The reason mask of TFTEXT (R124) -/

/-- The condition `nonascii`. -/
def textNonAscii (t : List Byte) : Bool := t.any nonAsciiByte

/-- The number of characters of a text under a unit of count. -/
def textCount : TextLenUnit → List Byte → Nat
  | .bytes, t => t.length
  | .chars, t => (t.filter (fun b => !continuesChar b)).length

/-- The condition `wronglen`. -/
def textWrongLen (u : TextLenUnit) (t : List Byte) : Bool := textCount u t != 4

/-- The condition `nonalpha`, for a reading `f` of NONASCII_NONALPHA. -/
def textNonAlpha (f : List Byte → Bool) (t : List Byte) : Bool :=
  t.any (fun b => !nonAsciiByte b && !letter b) || (textNonAscii t && f t)

/-- `textCheck` for given parameters: bit 0 NONASCII, bit 1 WRONGLEN, bit 2 NONALPHA; all three are computed,
whatever the others give. -/
def textCheckWith (u : TextLenUnit) (f : List Byte → Bool) (t : List Byte) : BitVec 3 :=
  BitVec.ofBool (textNonAlpha f t) ++ BitVec.ofBool (textWrongLen u t) ++ BitVec.ofBool (textNonAscii t)

/-- `textCheck` of R124, under the implementation's parameters. -/
def textCheck (t : List Byte) : BitVec 3 := textCheckWith Config.textLenUnit Config.nonAsciiNonAlpha t

/-! ## The tag predicates -/

/-- `upper(b)` of R126. -/
def upper : CaseRule → Byte → Bool
  | .asciiClass, b => asciiUpper b
  | .bit5, b => !b.getLsbD 5

/-- `lower(b)` of R126. -/
def lower : CaseRule → Byte → Bool
  | .asciiClass, b => asciiLower b
  | .bit5, b => b.getLsbD 5

/-- Byte `i` of the tag that a register holds (10_state.md R42). -/
def tagByte (r : Word) (i : Nat) : Byte := (bytes32 r).getD i 0

/-- R127. -/
def isCritical (c : CaseRule) (r : Word) : Bool := upper c (tagByte r 0)

/-- R128. -/
def isPublic (c : CaseRule) (r : Word) : Bool := upper c (tagByte r 1)

/-- R129. -/
def isReservedBitValid (c : CaseRule) (r : Word) : Bool := upper c (tagByte r 2)

/-- R130: this predicate tests for lowercase, unlike the other three. -/
def isSafeToCopy (c : CaseRule) (r : Word) : Bool := lower c (tagByte r 3)

/-- The four property bits of a tag: bit 0 critical, bit 1 public, bit 2 reserved-bit valid, bit 3 safe to copy
(10_state.md R31). -/
def tagProps (c : CaseRule) (r : Word) : BitVec 4 :=
  BitVec.ofBool (isSafeToCopy c r) ++ BitVec.ofBool (isReservedBitValid c r) ++
    BitVec.ofBool (isPublic c r) ++ BitVec.ofBool (isCritical c r)

/-- TYPE_PROPS (10_state.md R31): TREG's bits in 3:0, CH_TYPE's in 11:8, the rest 0. -/
def typePropsWith (c : CaseRule) (tReg chType : Word) : Word :=
  (0 : BitVec 20) ++ tagProps c chType ++ (0 : BitVec 4) ++ tagProps c tReg

/-- The register TYPE_PROPS, under the implementation's CASE_RULE. -/
def State.typeProps (s : State) : Word := typePropsWith Config.caseRule s.tReg s.chType

/-! ## STATUS -/

/-- STATUS.TYPE_EQ: the two registers compared as 32-bit values, whatever CH_VALID is (R132). -/
def State.typeEq (s : State) : Bool := s.tReg == s.chType

/-- The number of a status code in STATUS.ERR (60_exceptions.md R230). -/
def StatusCode.number : StatusCode → BitVec 4
  | .ok => 0x0
  | .bufferTooShort => 0x1
  | .lengthTooLarge => 0x2
  | .incorrectLength => 0x3
  | .crcFieldSize => 0x4
  | .crcMismatch => 0x5
  | .validation => 0x6
  | .inLenRange => 0x7
  | .noChunk => 0x8
  | .illegalCmd => 0x9

/-- The STATUS word of R26 from its fields; bits 7:5 and 31:12 read 0. -/
def statusWord (err : StatusCode) (typeEq chValid werr done busy : Bool) : Word :=
  (0 : BitVec 20) ++ err.number ++ (0 : BitVec 3) ++ BitVec.ofBool typeEq ++ BitVec.ofBool chValid ++
    BitVec.ofBool werr ++ BitVec.ofBool done ++ BitVec.ofBool busy

/-- The exact value of STATUS. -/
def State.statusExact (s : State) : Word :=
  statusWord s.status.err s.typeEq s.status.chValid s.status.werr s.status.done s.status.busy

/-- The value of STATUS that a read while BUSY returns for a free draw `d`: the fields CH_VALID and TYPE_EQ are
unspecified, the others exact (70_reset_and_hazards.md R264; log 4). -/
def State.statusWhileBusy (s : State) (d : Word) : Word :=
  statusWord s.status.err (d.getLsbD 4) (d.getLsbD 3) s.status.werr s.status.done s.status.busy

end Sys2Proof.Machine
end

