-- ==== Sys2Proof/Machine/CrcEngine.lean ====
section
/-! DEFINITION. The CRC engine (42_crc.md): the checksum function, its table method, and the command CRC. -/

namespace Sys2Proof.Machine

/-- One of the eight shift steps of R201. -/
def crcBit (c : Word) : Word := if c.getLsbD 0 then (c >>> 1) ^^^ 0xEDB88320#32 else c >>> 1

/-- `repeat 8 times` of R201. -/
def crcBits8 (c : Word) : Word :=
  crcBit (crcBit (crcBit (crcBit (crcBit (crcBit (crcBit (crcBit c)))))))

/-- One byte of R201: the byte is xored into the low bits, then eight shift steps. -/
def crcByte (c : Word) (b : Byte) : Word := crcBits8 (c ^^^ b.setWidth 32)

/-- The loop of R201 over a byte sequence, from a running value. -/
def crcFold (c : Word) : List Byte → Word
  | [] => c
  | b :: bs => crcFold (crcByte c b) bs

/-- `crc32(s)` (R201): init 0xFFFFFFFF, reflected polynomial 0xEDB88320, xorout 0xFFFFFFFF. -/
def crc32 (s : List Byte) : Word := crcFold 0xFFFFFFFF#32 s ^^^ 0xFFFFFFFF#32

/-- Entry k of the table of R202: the bitwise loop run on c = k, with no init and no xorout. -/
def crcTable (k : Byte) : Word := crcBits8 (k.setWidth 32)

/-- The byte step of the table method (R202). -/
def crcTableByte (c : Word) (b : Byte) : Word :=
  (c >>> 8) ^^^ crcTable ((c ^^^ b.setWidth 32).extractLsb' 0 8)

/-- The loop of the table method. -/
def crcTableFold (c : Word) : List Byte → Word
  | [] => c
  | b :: bs => crcTableFold (crcTableByte c b) bs

/-- The checksum by the table method (R202), which an implementation may use in place of `crc32`. -/
def crc32Table (s : List Byte) : Word := crcTableFold 0xFFFFFFFF#32 s ^^^ 0xFFFFFFFF#32

/-- CRC (R205). -/
def execCrc (s : State) : Host.Outcome State Fault Refusal :=
  match s.input with
  | none => .next (s.complete .inLenRange s.inLen 0)
  | some t => .next (State.complete { s with crcResult := crc32 t } .ok 0 0)

end Sys2Proof.Machine
end

