-- ==== Sys2Proof/Machine/Frame.lean ====
section
/-! DEFINITION. The frame unit (41_frame.md): the frame layout, the parse, and the commands ENCODE, DECODE and
SERIALIZE. -/

namespace Sys2Proof.Machine

/-- The result of `decodeFrame` (R164). -/
inductive FrameResult where
  /-- The declared length, the tag bytes, the data and the stored checksum. -/
  | frame (len : Word) (tag data : List Byte) (stored : Word)
  /-- The code and the payload of the first step that fails. -/
  | bad (code : StatusCode) (i0 i1 : Word)
deriving DecidableEq, Repr

/-- The field `length` of a frame: its first 4 bytes, big-endian (R164 step 1, R96). -/
def frameLen (b : List Byte) : Word := be32 (b.take 4)

/-- The tag bytes of a frame: offsets 4 to 7 (R164 step 3, R96). -/
def frameTag (b : List Byte) : List Byte := (b.drop 4).take 4

/-- The `n` data bytes of a frame, from offset 8 (R164 step 4, R96). -/
def frameData (b : List Byte) (n : Nat) : List Byte := (b.drop 8).take n

/-- The stored checksum of a frame with `n` data bytes: 4 bytes from offset 8 + n, big-endian (R164 step 5, R96). -/
def frameStored (b : List Byte) (n : Nat) : Word := be32 ((b.drop (8 + n)).take 4)

/-- `decodeFrame(b)` (R164): the steps in order, the first that fails deciding the code (R165). The subtractions are
those of R164 and never go below 0 where they stand. -/
def decodeFrame (b : List Byte) : FrameResult :=
  if b.length < 4 then .bad .bufferTooShort 0 0
  else if (frameLen b).toNat > 0x7FFFFFFF then .bad .lengthTooLarge (frameLen b) 0
  else if b.length < 8 then .bad .bufferTooShort 0 0
  else if b.length - 8 < (frameLen b).toNat then .bad .incorrectLength (frameLen b) 0
  else if b.length - 8 - (frameLen b).toNat ≠ 4 then
    .bad .crcFieldSize (BitVec.ofNat 32 (b.length - 8 - (frameLen b).toNat)) 0
  else if frameStored b (frameLen b).toNat ≠ crc32 (frameTag b ++ frameData b (frameLen b).toNat) then
    .bad .crcMismatch (frameStored b (frameLen b).toNat) (crc32 (frameTag b ++ frameData b (frameLen b).toNat))
  else .frame (frameLen b) (frameTag b) (frameData b (frameLen b).toNat) (frameStored b (frameLen b).toNat)

/-- The frame of a chunk (R96, R170): length, tag, data, checksum. -/
def frameOf (len type : Word) (data : List Byte) (crc : Word) : List Byte :=
  bytes32 len ++ bytes32 type ++ data ++ bytes32 crc

/-- ENCODE (R161): builds a chunk from TYPE and IBUF[0..IN_LEN). The tag is not checked, and the length is not checked
against 2^31 - 1 (R162). -/
def execEncode (s : State) : Host.Outcome State Fault Refusal :=
  match s.input with
  | none => .next ((s.setChValid false).complete .inLenRange s.inLen 0)
  | some d => .next ((s.setSlot s.inLen s.tReg (crc32 (bytes32 s.tReg ++ d)) d).complete .ok 0 0)

/-- DECODE (R163): parses IBUF[0..IN_LEN). A failure clears CH_VALID and leaves the rest of the slot (R167). -/
def execDecode (s : State) : Host.Outcome State Fault Refusal :=
  match s.input with
  | none => .next ((s.setChValid false).complete .inLenRange s.inLen 0)
  | some b =>
    match decodeFrame b with
    | .frame len tag data stored => .next ((s.setSlot len (be32 tag) stored data).complete .ok 0 0)
    | .bad code i0 i1 => .next ((s.setChValid false).complete code i0 i1)

/-- The frame that SERIALIZE writes: the slot's, with the stored checksum (R170). -/
def State.slotFrame (s : State) : List Byte :=
  frameOf s.chLength s.chType (s.dbuf.slice 0 s.chLength.toNat) s.chCrc

/-- SERIALIZE (R170). -/
def execSerialize (s : State) : Host.Outcome State Fault Refusal :=
  if s.status.chValid = false then .next (s.complete .noChunk 0 0)
  else
    State.engineRange s.chLength.toNat Config.bufSize
      (.next (State.complete { s with obuf := s.obuf.writeSeq 0 s.slotFrame, outLen := s.chLength + 12 } .ok 0 0))

end Sys2Proof.Machine
end

