-- ==== Sys2Proof/Machine/TypeTag.lean ====
section
/-! DEFINITION. The commands of the type-tag unit (40_type_tag.md): TFRAW and TFTEXT. The predicates and the type
equality, which are no commands, stand in Flags.lean. -/

namespace Sys2Proof.Machine

/-- TFRAW (R121): TYPE <- ARG_TYPE, with no character check; it cannot fail. -/
def execTfraw (s : State) : Host.Outcome State Fault Refusal :=
  .next (State.complete { s with tReg := s.argType } .ok 0 0)

/-- TFTEXT (R123). A text that fails its check leaves TYPE as it was and reports the mask twice, in TEXT_ERR and
INFO0. -/
def execTftext (s : State) : Host.Outcome State Fault Refusal :=
  match s.input with
  | none => .next (s.complete .inLenRange s.inLen 0)
  | some t =>
    .next
      (if textCheck t = 0 then
        State.complete { s with textErr := (textCheck t).setWidth 32, tReg := be32 (t.take 4) } .ok 0 0
      else
        State.complete { s with textErr := (textCheck t).setWidth 32 } .validation ((textCheck t).setWidth 32) 0)

end Sys2Proof.Machine
end

