-- ==== Sys2Proof/Machine/Dispatch.lean ====
section
/-! DEFINITION. The completion of each command (30_encoding.md R92), one arm for each. -/

namespace Sys2Proof.Machine

def exec (i : Instr) (s : State) : Host.Outcome State Fault Refusal :=
  match i with
  | .tfraw => Sys2Proof.Machine.execTfraw s
  | .tftext => Sys2Proof.Machine.execTftext s
  | .encode => Sys2Proof.Machine.execEncode s
  | .decode => Sys2Proof.Machine.execDecode s
  | .serialize => Sys2Proof.Machine.execSerialize s
  | .crc => Sys2Proof.Machine.execCrc s

end Sys2Proof.Machine
end

