-- ==== Sys2Proof/Machine/Engine.lean ====
section
/-! DEFINITION. The engine: when it moves and its completion step (10_state.md R21, 30_encoding.md R92). -/

namespace Sys2Proof.Machine

/-- Whether the next step is the engine's: a command is in progress, and either the host steps that go before its
completion are made or the host has none to make (R21, R267; log 6). -/
def State.engineTurn (s : State) : Bool := s.status.busy && (s.hostFirst == 0 || s.pending.isEmpty)

/-- The completion of the command in progress (R92): CUR_CMD is decoded; an illegal word completes with ILLEGAL_CMD. -/
def State.completion (s : State) : Host.Outcome State Fault Refusal :=
  match decode s.curCmd with
  | .ok i => exec i s
  | .error _ => .next s.illegalCmd

end Sys2Proof.Machine
end

