-- ==== Sys2Proof/Machine/HostPort.lean ====
section
/-! DEFINITION. The host's steps: reads and writes of the four spaces with their responses (20_memory.md R64 to R67,
10_state.md R24 to R40), the busy protocol (70_reset_and_hazards.md R264, R265), POLL and the reset event, and the
expansion of host assembly (30_encoding.md R99, R100). -/

namespace Sys2Proof.Machine

/-! ## Registers -/

/-- The exact value of a register (R23): CMD reads 0, CAP is BUF_SIZE, TYPE_PROPS and STATUS.TYPE_EQ are computed. -/
def State.regValue (s : State) : Reg → Word
  | .cap => BitVec.ofNat 32 Config.bufSize
  | .cmd => 0
  | .status => s.statusExact
  | .inLen => s.inLen
  | .argType => s.argType
  | .type => s.tReg
  | .typeProps => s.typeProps
  | .textErr => s.textErr
  | .crcResult => s.crcResult
  | .chLength => s.chLength
  | .chType => s.chType
  | .chCrc => s.chCrc
  | .outLen => s.outLen
  | .info0 => s.info0
  | .info1 => s.info1

/-- The value a host read of a register returns: exact, but for the reads that R264 makes unspecified while BUSY, which
return the next free draw. -/
def State.readRegValue (s : State) (r : Reg) : Word :=
  if s.status.busy then
    if r = .status then s.statusWhileBusy (Config.freeWord s.draws)
    else if r.unspecifiedWhileBusy then Config.freeWord s.draws
    else s.regValue r
  else s.regValue r

/-- A host read made while BUSY counts one free draw, whether or not its value is one (log 5). -/
def State.countDraw (s : State) : State := if s.status.busy then { s with draws := s.draws + 1 } else s

/-- A host write to a register (R24 to R40, R265). A write to CMD, IN_LEN or ARG_TYPE while BUSY is dropped and sets
WERR; a write to STATUS clears WERR where bit 2 is 1, at any time; a write to a read-only register is ignored. -/
def State.writeReg (s : State) (v : Word) : Reg → State
  | .cmd => if s.status.busy then s.setWerr true else s.accept v
  | .status => if v.getLsbD 2 then s.setWerr false else s
  | .inLen => if s.status.busy then s.setWerr true else { s with inLen := v }
  | .argType => if s.status.busy then s.setWerr true else { s with argType := v }
  | .cap => s
  | .type => s
  | .typeProps => s
  | .textErr => s
  | .crcResult => s
  | .chLength => s
  | .chType => s
  | .chCrc => s
  | .outLen => s
  | .info0 => s
  | .info1 => s

/-! ## Buffers -/

/-- The byte a host read of DBUF or OBUF returns: exact, or a free draw while BUSY (R264). -/
def State.readResultByte (s : State) (m : Memory) (a : Nat) : Byte :=
  if s.status.busy then (Config.freeWord s.draws).setWidth 8 else m.read a

/-- A host write of a byte of IBUF (R66): dropped, with WERR set, while BUSY. -/
def State.writeIbuf (s : State) (a : Nat) (v : Byte) : State :=
  if s.status.busy then s.setWerr true else { s with ibuf := s.ibuf.write a v }

/-! ## One access -/

/-- The response to a host access (R64 to R67). -/
def State.respond (s : State) (a : Access) : Response :=
  match a with
  | .read .reg off .w32 =>
    match Reg.ofOffset off with
    | some r => .okWord (s.readRegValue r)
    | none => .busErr
  | .read .ibuf off .w8 => if off.toNat < Space.ibuf.size then .okByte (s.ibuf.read off.toNat) else .busErr
  | .read .dbuf off .w8 =>
    if off.toNat < Space.dbuf.size then .okByte (s.readResultByte s.dbuf off.toNat) else .busErr
  | .read .obuf off .w8 =>
    if off.toNat < Space.obuf.size then .okByte (s.readResultByte s.obuf off.toNat) else .busErr
  | .read .reg _ .w8 => .busErr
  | .read .ibuf _ .w32 => .busErr
  | .read .dbuf _ .w32 => .busErr
  | .read .obuf _ .w32 => .busErr
  | .write .reg off .w32 _ =>
    match Reg.ofOffset off with
    | some _ => .ok
    | none => .busErr
  | .write .ibuf off .w8 _ => if off.toNat < Space.ibuf.size then .ok else .busErr
  | .write .dbuf off .w8 _ => if off.toNat < Space.dbuf.size then .ok else .busErr
  | .write .obuf off .w8 _ => if off.toNat < Space.obuf.size then .ok else .busErr
  | .write .reg _ .w8 _ => .busErr
  | .write .ibuf _ .w32 _ => .busErr
  | .write .dbuf _ .w32 _ => .busErr
  | .write .obuf _ .w32 _ => .busErr

/-- What a host access that is not refused does to the core: a write of a register or of IBUF acts as its rule says; a
write of DBUF or OBUF is ignored (R66); a read has no side effect on the core (R73). A refused access changes nothing
(R67). -/
def State.performAccess (s : State) (a : Access) : State :=
  match a with
  | .read _ _ _ => if s.respond a = .busErr then s else s.countDraw
  | .write .reg off .w32 v =>
    match Reg.ofOffset off with
    | some r => s.writeReg v r
    | none => s
  | .write .ibuf off .w8 v => if off.toNat < Space.ibuf.size then s.writeIbuf off.toNat (v.setWidth 8) else s
  | .write .reg _ .w8 _ => s
  | .write .ibuf _ .w32 _ => s
  | .write .dbuf _ _ _ => s
  | .write .obuf _ _ _ => s

/-! ## One step of the host -/

/-- The state in which the host takes its next step: one fewer goes before the engine's, and what is left of the
program is `rest`. -/
def State.hostTurn (s : State) (rest : List HostOp) : State :=
  { s with hostFirst := s.hostFirst - 1, pending := rest }

/-- Record a response, newest first. -/
def State.pushResponse (s : State) (r : Response) : State := { s with responses := r :: s.responses }

/-- POLL reads STATUS and goes on reading while bit 0 of the value read is 1 (R100). -/
def State.pollAgain (s : State) : Bool := (s.readRegValue .status).getLsbD 0

/-- The host's next step (R20, R76, R268). With no step left, nothing happens (log 8). -/
def State.hostStep (s : State) : State :=
  match s.pending with
  | [] => s
  | .access a :: rest => ((s.hostTurn rest).performAccess a).pushResponse (s.respond a)
  | .poll :: rest =>
    ((s.hostTurn (if s.pollAgain then .poll :: rest else rest)).countDraw).pushResponse
      (.okWord (s.readRegValue .status))
  | .reset :: rest => (s.hostTurn rest).resetEvent

/-! ## Host assembly -/

/-- The bus access `WR32 <reg>, <v32>` makes (R99). -/
def asmWr32 (r : Reg) (v : Word) : HostOp := .access (.write .reg r.offset .w32 v)

/-- The bus access `RD32 <reg>` makes (R99). -/
def asmRd32 (r : Reg) : HostOp := .access (.read .reg r.offset .w32)

/-- The bus access `WR8 IBUF[<off>], <v8>` makes (R99). -/
def asmWr8 (off : Word) (v : Byte) : HostOp := .access (.write .ibuf off .w8 (v.setWidth 32))

/-- The byte writes of LOADB, from an offset up (R100). -/
def asmLoadFrom (i : Nat) : List Byte → List HostOp
  | [] => []
  | b :: bs => asmWr8 (BitVec.ofNat 32 i) b :: asmLoadFrom (i + 1) bs

/-- LOADB: the bytes, then their number in IN_LEN (R100). -/
def asmLoad (bytes : List Byte) : List HostOp :=
  asmLoadFrom 0 bytes ++ [asmWr32 .inLen (BitVec.ofNat 32 bytes.length)]

/-- The host steps of one line (R99, R100). EXPECT makes the read; the value it names is an assertion about the run,
not a bus side effect (log 13). -/
def AsmLine.expand : AsmLine → List HostOp
  | .wr32 r v => [asmWr32 r v]
  | .rd32 r => [asmRd32 r]
  | .wr8 off v => [asmWr8 off v]
  | .rd8 buf off => [.access (.read buf off .w8)]
  | .start i => [asmWr32 .cmd ((opcodeOf i).setWidth 32)]
  | .poll => [.poll]
  | .exec i => [asmWr32 .cmd ((opcodeOf i).setWidth 32), .poll]
  | .loadText codes => asmLoad codes
  | .loadBytes bytes => asmLoad bytes
  | .expect r _ => [asmRd32 r]

/-- A host program: the steps of its lines, in order. -/
def assemble (lines : List AsmLine) : List HostOp := lines.flatMap AsmLine.expand

end Sys2Proof.Machine
end

