-- ==== Sys2Proof/Machine/Step.lean ====
section
/-! DEFINITION. One step of the machine: the engine's completion or the host's next step (10_state.md R20, R21), and
`withFetchWord`, which puts a command word where the next step takes its command from. -/

namespace Sys2Proof.Machine

/-- One step. -/
def step (s : State) : Host.Outcome State Fault Refusal :=
  if s.engineTurn then s.completion else .next s.hostStep

/-- `s` with a command word accepted (R21) and the engine to move next: the very next step completes that command. It
stands for the host's write to CMD (log 7). -/
def State.withFetchWord (s : State) (nbits w : Nat) : State :=
  { s.latch (BitVec.ofNat 32 (w % 2 ^ nbits)) with hostFirst := 0 }

end Sys2Proof.Machine
end

