-- ==== Sys2Proof/Safety.lean ====
section
/-! DEFINITION. What a sound state of the core is (`State.Inv`), and the words the statements use for what a step leaves
unchanged and for what a completion reports. -/

namespace Sys2Proof.Machine

/-! ## The invariant -/

/-- 10_state.md R41: whenever CH_VALID = 1, the length is at most BUF_SIZE and the checksum is that of the tag and the
data. -/
def State.SlotHolds (s : State) : Prop :=
  s.status.chValid = true →
    s.chLength.toNat ≤ Config.bufSize ∧
    s.chCrc = crc32 (bytes32 s.chType ++ s.dbuf.slice 0 s.chLength.toNat)

/-- A buffer in its canonical form that lists only offsets of its space. -/
def Memory.sound (m : Memory) (size : Nat) : Prop := m.wf ∧ m.below size

/-- The invariant of the core. -/
structure State.Inv (s : State) : Prop where
  /-- IBUF is in canonical form, inside its size (20_memory.md R60). -/
  ibuf : s.ibuf.sound Space.ibuf.size
  /-- DBUF is in canonical form, inside its size. -/
  dbuf : s.dbuf.sound Space.dbuf.size
  /-- OBUF is in canonical form, inside its size. -/
  obuf : s.obuf.sound Space.obuf.size
  /-- R41. -/
  slot : s.SlotHolds
  /-- DONE is 0 and ERR is 0 while BUSY (10_state.md R26). -/
  busy : s.status.busy = true → s.status.done = false ∧ s.status.err = .ok
  /-- Bits 31:3 of TEXT_ERR read 0 (10_state.md R32). -/
  textErr : s.textErr.toNat < 8
  /-- OUT_LEN counts bytes of OBUF (10_state.md R37). -/
  outLen : s.outLen.toNat ≤ Space.obuf.size

/-! ## What stays unchanged -/

/-- Every byte of a buffer reads as before. -/
def Memory.sameBytes (m m' : Memory) : Prop := ∀ a, m'.read a = m.read a

/-- What only the host writes, and CUR_CMD: IN_LEN, ARG_TYPE, IBUF, CUR_CMD. -/
def State.keptInputs (s t : State) : Prop :=
  t.inLen = s.inLen ∧ t.argType = s.argType ∧ t.curCmd = s.curCmd ∧ s.ibuf.sameBytes t.ibuf

/-- TYPE and TEXT_ERR. -/
def State.keptTag (s t : State) : Prop := t.tReg = s.tReg ∧ t.textErr = s.textErr

/-- The chunk slot apart from CH_VALID: CH_LENGTH, CH_TYPE, CH_CRC and every byte of DBUF. -/
def State.keptSlot (s t : State) : Prop :=
  t.chLength = s.chLength ∧ t.chType = s.chType ∧ t.chCrc = s.chCrc ∧ s.dbuf.sameBytes t.dbuf

/-- OUT_LEN and every byte of OBUF. -/
def State.keptOut (s t : State) : Prop := t.outLen = s.outLen ∧ s.obuf.sameBytes t.obuf

/-- INFO0 and INFO1. -/
def State.keptInfo (s t : State) : Prop := t.info0 = s.info0 ∧ t.info1 = s.info1

/-- The model's own fields. -/
def State.keptModel (s t : State) : Prop :=
  t.pending = s.pending ∧ t.responses = s.responses ∧ t.hostFirst = s.hostFirst ∧ t.draws = s.draws

/-- Every register and every buffer byte of the core, apart from the fields of STATUS. -/
def State.keptAllButStatus (s t : State) : Prop :=
  s.keptInputs t ∧ s.keptTag t ∧ t.crcResult = s.crcResult ∧ s.keptSlot t ∧ s.keptOut t ∧ s.keptInfo t

/-- The whole core state. -/
def State.keptCore (s t : State) : Prop := t.status = s.status ∧ s.keptAllButStatus t

/-! ## What a completion reports -/

/-- `complete(code, i0, i1)` (60_exceptions.md R232), with WERR as it was. -/
def State.reports (s t : State) (code : StatusCode) (i0 i1 : Word) : Prop :=
  t.status.err = code ∧ t.info0 = i0 ∧ t.info1 = i1 ∧ t.status.busy = false ∧ t.status.done = true ∧
  t.status.werr = s.status.werr

/-- DECODE fails with a code and a payload: CH_VALID is cleared and the rest of the slot is as before (41_frame.md
R167). -/
def State.decodeFails (s : State) (code : StatusCode) (i0 i1 : Word) : Prop :=
  ∃ t, exec .decode s = .next t ∧ s.reports t code i0 i1 ∧ t.status.chValid = false ∧
    s.keptInputs t ∧ s.keptTag t ∧ t.crcResult = s.crcResult ∧ s.keptSlot t ∧ s.keptOut t ∧ s.keptModel t

/-! ## Reading a buffer -/

/-- The number that four bytes of a buffer make, most significant first (20_memory.md R68). -/
def Memory.word32 (m : Memory) (a : Nat) : Nat :=
  (m.read a).toNat * 2 ^ 24 + (m.read (a + 1)).toNat * 2 ^ 16 + (m.read (a + 2)).toNat * 2 ^ 8 +
    (m.read (a + 3)).toNat

/-! ## Whose turn it is -/

/-- The next step is the engine's (10_state.md R21; log 6). -/
def State.engineMoves (s : State) : Prop := s.status.busy = true ∧ (s.hostFirst = 0 ∨ s.pending = [])

/-- The next step is the host's, and it is `op`; `rest` is left of its program. -/
def State.hostMoves (s : State) (op : HostOp) (rest : List HostOp) : Prop :=
  s.pending = op :: rest ∧ (s.status.busy = false ∨ s.hostFirst ≠ 0)

/-- A host step that gave a response: the program went on and the response is recorded. -/
def State.hostWentOn (s t : State) (rest : List HostOp) (r : Response) : Prop :=
  t.pending = rest ∧ t.responses = r :: s.responses

end Sys2Proof.Machine
end

