-- ==== Sys2Proof/Certificates/Slice0/Obligations.lean ====
section
/-! DEFINITION. The statements for the provers, from the numbered rules of spec/. A statement that rests on a choice of
the model says so and names the log entry. No statement rests on the value of a free constant of Config. -/

open Sys2Proof Sys2Proof.Machine

/-! ## Encodings -/

/-- 30_encoding.md R91, R94: the six words of the opcode table, and one word of each illegal space. -/
def Obligations.DecodeReadsTableWords : Prop :=
  decode 0x00000001#32 = .ok .tfraw ∧ decode 0x00000002#32 = .ok .tftext ∧
  decode 0x00000003#32 = .ok .encode ∧ decode 0x00000004#32 = .ok .decode ∧
  decode 0x00000005#32 = .ok .serialize ∧ decode 0x00000006#32 = .ok .crc ∧
  decode 0x00000000#32 = .error .noSuchOpcode ∧ decode 0x00000007#32 = .error .noSuchOpcode ∧
  decode 0x00000101#32 = .error .reservedNotZero

/-- 30_encoding.md R91: a raw command selects a command exactly when RSVD = 0 and OPC is the command's number. -/
def Obligations.DecodeMatchesExactlyOneRow : Prop :=
  ∀ (c : Command) (i : Instr),
    decode c.word = .ok i ↔
      c.rsvd = 0 ∧ c.opc.toNat = (match i with
        | .tfraw => 0x01
        | .tftext => 0x02
        | .encode => 0x03
        | .decode => 0x04
        | .serialize => 0x05
        | .crc => 0x06)

/-- 30_encoding.md R90, R91: decoding inverts encoding, and only encoded words decode. -/
def Obligations.DecodeInvertsEncode : Prop :=
  (∀ i : Instr, i.wellFormed = true → decode (encode i) = .ok i) ∧
  (∀ (w : Word) (i : Instr), decode w = .ok i → w = encode i)

/-- 10_state.md R23, R39: the fifteen offsets are those of the register map, and no other offset names a register. -/
def Obligations.RegisterMapIsExact : Prop :=
  ∀ (off : Word) (r : Reg), Reg.ofOffset off = some r ↔ off.toNat = (match r with
    | .cap => 0x00
    | .cmd => 0x04
    | .status => 0x08
    | .inLen => 0x0C
    | .argType => 0x10
    | .type => 0x14
    | .typeProps => 0x18
    | .textErr => 0x1C
    | .crcResult => 0x20
    | .chLength => 0x24
    | .chType => 0x28
    | .chCrc => 0x2C
    | .outLen => 0x30
    | .info0 => 0x34
    | .info1 => 0x38)

/-! ## The command lifecycle -/

/-- 10_state.md R21, 30_encoding.md R92: on the engine's turn, a step runs the command that CUR_CMD decodes to. Whose
turn it is, is the model's plain data (log 6). -/
def Obligations.StepRunsDecodedCommand : Prop :=
  ∀ (s : State) (i : Instr), s.engineMoves → decode s.curCmd = .ok i → step s = exec i s

/-- 30_encoding.md R92: every 32-bit word selects exactly one outcome at completion. -/
def Obligations.CompletionDecodesCurCmd : Prop :=
  ∀ s : State, s.engineMoves →
    (s.curCmd.toNat = 0x00000001 → step s = exec .tfraw s) ∧
    (s.curCmd.toNat = 0x00000002 → step s = exec .tftext s) ∧
    (s.curCmd.toNat = 0x00000003 → step s = exec .encode s) ∧
    (s.curCmd.toNat = 0x00000004 → step s = exec .decode s) ∧
    (s.curCmd.toNat = 0x00000005 → step s = exec .serialize s) ∧
    (s.curCmd.toNat = 0x00000006 → step s = exec .crc s) ∧
    (s.curCmd.toNat = 0 ∨ 7 ≤ s.curCmd.toNat →
      ∃ t, step s = .next t ∧ s.reports t .illegalCmd s.curCmd 0)

/-- 60_exceptions.md R241, 30_encoding.md R94: an illegal word completes with ILLEGAL_CMD, INFO0 = the word, and
nothing else changes. -/
def Obligations.IllegalWordCompletesWithIllegalCmd : Prop :=
  ∀ s : State, s.engineMoves →
    (s.curCmd.extractLsb' 8 24 ≠ 0 ∨ s.curCmd.extractLsb' 0 8 = 0 ∨ 0x07 ≤ (s.curCmd.extractLsb' 0 8).toNat) →
    ∃ t, step s = .next t ∧ s.reports t .illegalCmd s.curCmd 0 ∧ t.status.chValid = s.status.chValid ∧
      s.keptInputs t ∧ s.keptTag t ∧ t.crcResult = s.crcResult ∧ s.keptSlot t ∧ s.keptOut t ∧ s.keptModel t

/-- 10_state.md R21, R25: a host write to CMD while idle is an acceptance: CUR_CMD, BUSY, DONE and ERR are written and
nothing else of the core changes. -/
def Obligations.HostStartsCommand : Prop :=
  ∀ (s : State) (w : Word) (rest : List HostOp), s.status.busy = false →
    s.hostMoves (.access (.write .reg 0x04 .w32 w)) rest →
    ∃ t, step s = .next t ∧ s.hostWentOn t rest .ok ∧ t.curCmd = w ∧
      t.status = { s.status with busy := true, done := false, err := .ok } ∧
      t.inLen = s.inLen ∧ t.argType = s.argType ∧ s.ibuf.sameBytes t.ibuf ∧
      s.keptTag t ∧ t.crcResult = s.crcResult ∧ s.keptSlot t ∧ s.keptOut t ∧ s.keptInfo t

/-! ## The type-tag unit -/

/-- 40_type_tag.md R121: TFRAW copies ARG_TYPE into TYPE, whatever it holds, and cannot fail. -/
def Obligations.TfrawCopiesArgType : Prop :=
  ∀ s : State, ∃ t, exec .tfraw s = .next t ∧ t.tReg = s.argType ∧ s.reports t .ok 0 0 ∧
    t.status.chValid = s.status.chValid ∧ s.keptInputs t ∧ t.textErr = s.textErr ∧ t.crcResult = s.crcResult ∧
    s.keptSlot t ∧ s.keptOut t ∧ s.keptModel t

/-- 40_type_tag.md R123, R125: a text of four ASCII letters becomes the tag, and TEXT_ERR is 0. -/
def Obligations.TftextAcceptsFourLetters : Prop :=
  ∀ s : State, s.inLen.toNat = 4 →
    (∀ i, i < 4 → (0x41 ≤ (s.ibuf.read i).toNat ∧ (s.ibuf.read i).toNat ≤ 0x5A) ∨
      (0x61 ≤ (s.ibuf.read i).toNat ∧ (s.ibuf.read i).toNat ≤ 0x7A)) →
    ∃ t, exec .tftext s = .next t ∧ t.tReg.toNat = s.ibuf.word32 0 ∧ t.textErr = 0 ∧ s.reports t .ok 0 0 ∧
      t.status.chValid = s.status.chValid ∧ s.keptInputs t ∧ t.crcResult = s.crcResult ∧ s.keptSlot t ∧
      s.keptOut t ∧ s.keptModel t

/-- 40_type_tag.md R123, 60_exceptions.md R238: a text that fails its check leaves TYPE as it was, and the mask of all
violated conditions stands in TEXT_ERR and INFO0. -/
def Obligations.TftextRejectsAndReportsMask : Prop :=
  ∀ s : State, s.inLen.toNat ≤ Config.bufSize → textCheck (s.ibuf.slice 0 s.inLen.toNat) ≠ 0 →
    ∃ t, exec .tftext s = .next t ∧ t.tReg = s.tReg ∧
      t.textErr.toNat = (textCheck (s.ibuf.slice 0 s.inLen.toNat)).toNat ∧
      s.reports t .validation t.textErr 0 ∧ t.textErr ≠ 0 ∧
      t.status.chValid = s.status.chValid ∧ s.keptInputs t ∧ t.crcResult = s.crcResult ∧ s.keptSlot t ∧
      s.keptOut t ∧ s.keptModel t

/-- 40_type_tag.md R124: each bit of the mask is its own condition, under every value of the parameters. -/
def Obligations.TextCheckMaskBits : Prop :=
  (∀ (u : TextLenUnit) (f : List Byte → Bool) (t : List Byte),
    ((textCheckWith u f t).getLsbD 0 = true ↔ ∃ b ∈ t, 0x80 ≤ b.toNat) ∧
    ((textCheckWith u f t).getLsbD 1 = true ↔ (match u with
      | .bytes => t.length
      | .chars => t.countP (fun b => decide (¬(0x80 ≤ b.toNat ∧ b.toNat ≤ 0xBF)))) ≠ 4) ∧
    ((textCheckWith u f t).getLsbD 2 = true ↔
      (∃ b ∈ t, b.toNat < 0x80 ∧
        ¬((0x41 ≤ b.toNat ∧ b.toNat ≤ 0x5A) ∨ (0x61 ≤ b.toNat ∧ b.toNat ≤ 0x7A))) ∨
      ((∃ b ∈ t, 0x80 ≤ b.toNat) ∧ f t = true))) ∧
  (∀ t : List Byte, textCheck t = textCheckWith Config.textLenUnit Config.nonAsciiNonAlpha t)

/-- 40_type_tag.md R125, which the spec marks as derived from R124: the mask is 0 exactly for four ASCII letters,
whatever the parameters. -/
def Obligations.TextCheckZeroMeansFourLetters : Prop :=
  ∀ (u : TextLenUnit) (f : List Byte → Bool) (t : List Byte),
    textCheckWith u f t = 0 ↔
      t.length = 4 ∧ ∀ b ∈ t, (0x41 ≤ b.toNat ∧ b.toNat ≤ 0x5A) ∨ (0x61 ≤ b.toNat ∧ b.toNat ≤ 0x7A)

/-- 40_type_tag.md R126 to R130: each predicate reads one byte of the tag, by ASCII class or by bit 5, and
`isSafeToCopy` alone tests for lowercase. -/
def Obligations.TagPredicatesReadOneByte : Prop :=
  ∀ r : Word,
    (isCritical .asciiClass r = true ↔ 0x41 ≤ r.toNat / 2 ^ 24 ∧ r.toNat / 2 ^ 24 ≤ 0x5A) ∧
    (isPublic .asciiClass r = true ↔ 0x41 ≤ r.toNat / 2 ^ 16 % 256 ∧ r.toNat / 2 ^ 16 % 256 ≤ 0x5A) ∧
    (isReservedBitValid .asciiClass r = true ↔ 0x41 ≤ r.toNat / 2 ^ 8 % 256 ∧ r.toNat / 2 ^ 8 % 256 ≤ 0x5A) ∧
    (isSafeToCopy .asciiClass r = true ↔ 0x61 ≤ r.toNat % 256 ∧ r.toNat % 256 ≤ 0x7A) ∧
    isCritical .bit5 r = !r.getLsbD 29 ∧ isPublic .bit5 r = !r.getLsbD 21 ∧
    isReservedBitValid .bit5 r = !r.getLsbD 13 ∧ isSafeToCopy .bit5 r = r.getLsbD 5

/-- 10_state.md R31: TYPE_PROPS shows the four predicates of TREG in bits 3:0 and of CH_TYPE in bits 11:8, reserved
bits read 0, and after reset it is 0 under ASCII_CLASS and 0x707 under BIT5. -/
def Obligations.TypePropsShowsBothTags : Prop :=
  (∀ s : State,
    (s.regValue .typeProps).getLsbD 0 = isCritical Config.caseRule s.tReg ∧
    (s.regValue .typeProps).getLsbD 1 = isPublic Config.caseRule s.tReg ∧
    (s.regValue .typeProps).getLsbD 2 = isReservedBitValid Config.caseRule s.tReg ∧
    (s.regValue .typeProps).getLsbD 3 = isSafeToCopy Config.caseRule s.tReg ∧
    (s.regValue .typeProps).getLsbD 8 = isCritical Config.caseRule s.chType ∧
    (s.regValue .typeProps).getLsbD 9 = isPublic Config.caseRule s.chType ∧
    (s.regValue .typeProps).getLsbD 10 = isReservedBitValid Config.caseRule s.chType ∧
    (s.regValue .typeProps).getLsbD 11 = isSafeToCopy Config.caseRule s.chType ∧
    ∀ i, (4 ≤ i ∧ i ≤ 7) ∨ (12 ≤ i ∧ i ≤ 31) → (s.regValue .typeProps).getLsbD i = false) ∧
  State.reset.regValue .typeProps = (match Config.caseRule with
    | .asciiClass => 0x00000000#32
    | .bit5 => 0x00000707#32)

/-- 40_type_tag.md R133, which the spec marks as derived from R125 and R126: on a tag of four letters the two readings
of CASE_RULE agree, and every tag that TFTEXT writes is such a tag. -/
def Obligations.PredicatesAgreeOnLetters : Prop :=
  (∀ r : Word, (∀ b ∈ bytes32 r, letter b = true) → tagProps .asciiClass r = tagProps .bit5 r) ∧
  (∀ s t : State, exec .tftext s = .next t → t.status.err = .ok → ∀ b ∈ bytes32 t.tReg, letter b = true)

/-! ## The status registers -/

/-- 10_state.md R26, 40_type_tag.md R132, 60_exceptions.md R230: every field of STATUS stands at its bits, TYPE_EQ is
the comparison of TYPE and CH_TYPE, the codes have their numbers, and reserved bits read 0. -/
def Obligations.StatusWordShowsItsFields : Prop :=
  ∀ s : State,
    (s.regValue .status).getLsbD 0 = s.status.busy ∧
    (s.regValue .status).getLsbD 1 = s.status.done ∧
    (s.regValue .status).getLsbD 2 = s.status.werr ∧
    (s.regValue .status).getLsbD 3 = s.status.chValid ∧
    ((s.regValue .status).getLsbD 4 = true ↔ s.tReg = s.chType) ∧
    ((s.regValue .status).extractLsb' 8 4).toNat = (match s.status.err with
      | .ok => 0
      | .bufferTooShort => 1
      | .lengthTooLarge => 2
      | .incorrectLength => 3
      | .crcFieldSize => 4
      | .crcMismatch => 5
      | .validation => 6
      | .inLenRange => 7
      | .noChunk => 8
      | .illegalCmd => 9) ∧
    ∀ i, (5 ≤ i ∧ i ≤ 7) ∨ (12 ≤ i ∧ i ≤ 31) → (s.regValue .status).getLsbD i = false

/-- 60_exceptions.md R231: what every completion writes into INFO0 and INFO1, code by code. -/
def Obligations.CompletionReportsPayload : Prop :=
  ∀ s t : State, s.engineMoves → step s = .next t →
    match t.status.err with
    | .ok => t.info0 = 0 ∧ t.info1 = 0
    | .bufferTooShort => t.info0 = 0 ∧ t.info1 = 0
    | .lengthTooLarge => t.info0.toNat = s.ibuf.word32 0 ∧ 0x80000000 ≤ t.info0.toNat ∧ t.info1 = 0
    | .incorrectLength => t.info0.toNat = s.ibuf.word32 0 ∧ s.inLen.toNat < 8 + t.info0.toNat ∧ t.info1 = 0
    | .crcFieldSize =>
      s.inLen.toNat = 8 + s.ibuf.word32 0 + t.info0.toNat ∧ t.info0.toNat ≠ 4 ∧ t.info1 = 0
    | .crcMismatch =>
      t.info0.toNat = s.ibuf.word32 (8 + s.ibuf.word32 0) ∧
      t.info1 = crc32 (s.ibuf.slice 4 (4 + s.ibuf.word32 0)) ∧ t.info0 ≠ t.info1
    | .validation => t.info0 = t.textErr ∧ t.info0 ≠ 0 ∧ t.info1 = 0
    | .inLenRange => t.info0 = s.inLen ∧ Config.bufSize < t.info0.toNat ∧ t.info1 = 0
    | .noChunk => t.info0 = 0 ∧ t.info1 = 0
    | .illegalCmd => t.info0 = s.curCmd ∧ t.info1 = 0

/-- 60_exceptions.md R239: TFTEXT, ENCODE, DECODE and CRC with IN_LEN > BUF_SIZE complete with IN_LEN_RANGE, INFO0 =
IN_LEN. ENCODE and DECODE also clear CH_VALID; nothing else changes. -/
def Obligations.InputLongerThanBufferIsRefused : Prop :=
  ∀ (s : State) (i : Instr), Config.bufSize < s.inLen.toNat →
    i = .tftext ∨ i = .encode ∨ i = .decode ∨ i = .crc →
    ∃ t, exec i s = .next t ∧ s.reports t .inLenRange s.inLen 0 ∧
      (i = .encode ∨ i = .decode → t.status.chValid = false) ∧
      (i = .tftext ∨ i = .crc → t.status.chValid = s.status.chValid) ∧
      s.keptInputs t ∧ s.keptTag t ∧ t.crcResult = s.crcResult ∧ s.keptSlot t ∧ s.keptOut t ∧ s.keptModel t

/-! ## The frame unit -/

/-- 41_frame.md R161: ENCODE builds the chunk of TYPE and IBUF[0..IN_LEN) in the slot. The tag is not checked, and the
length against nothing but BUF_SIZE (R162). -/
def Obligations.EncodeBuildsChunk : Prop :=
  ∀ s : State, s.inLen.toNat ≤ Config.bufSize →
    ∃ t, exec .encode s = .next t ∧ t.chLength = s.inLen ∧ t.chType = s.tReg ∧
      t.chCrc = crc32 (bytes32 s.tReg ++ s.ibuf.slice 0 s.inLen.toNat) ∧
      (∀ a, t.dbuf.read a = if a < s.inLen.toNat then s.ibuf.read a else s.dbuf.read a) ∧
      t.status.chValid = true ∧ t.typeEq = true ∧ s.reports t .ok 0 0 ∧
      s.keptInputs t ∧ s.keptTag t ∧ t.crcResult = s.crcResult ∧ s.keptOut t ∧ s.keptModel t

/-- 41_frame.md R162: the frame of a chunk longer than 2^31 - 1 bytes, which ENCODE does not forbid, is one that
DECODE rejects with LENGTH_TOO_LARGE. -/
def Obligations.LongChunkFrameIsRejected : Prop :=
  ∀ (len type crc : Word) (data : List Byte), 0x7FFFFFFF < len.toNat →
    decodeFrame (frameOf len type data crc) = .bad .lengthTooLarge len 0

/-- 41_frame.md R163, R164: a well-formed frame that fills IBUF[0..IN_LEN) is accepted into the slot, byte by byte. -/
def Obligations.DecodeAcceptsWellFormedFrame : Prop :=
  ∀ s : State, s.inLen.toNat ≤ Config.bufSize → s.ibuf.word32 0 ≤ 0x7FFFFFFF →
    s.inLen.toNat = s.ibuf.word32 0 + 12 →
    s.ibuf.word32 (8 + s.ibuf.word32 0) = (crc32 (s.ibuf.slice 4 (4 + s.ibuf.word32 0))).toNat →
    ∃ t, exec .decode s = .next t ∧ t.chLength.toNat = s.ibuf.word32 0 ∧ t.chType.toNat = s.ibuf.word32 4 ∧
      t.chCrc.toNat = s.ibuf.word32 (8 + s.ibuf.word32 0) ∧
      (∀ a, t.dbuf.read a = if a < s.ibuf.word32 0 then s.ibuf.read (8 + a) else s.dbuf.read a) ∧
      t.status.chValid = true ∧ s.reports t .ok 0 0 ∧
      s.keptInputs t ∧ s.keptTag t ∧ t.crcResult = s.crcResult ∧ s.keptOut t ∧ s.keptModel t

/-- 41_frame.md R164, R165, R167, R174, 60_exceptions.md R233 to R237: the first step of the parse that fails decides
the code and the payload; CH_VALID is cleared and the rest of the slot kept. -/
def Obligations.DecodeReportsFirstFailingStep : Prop :=
  ∀ s : State, s.inLen.toNat ≤ Config.bufSize →
    (s.inLen.toNat < 4 → s.decodeFails .bufferTooShort 0 0) ∧
    (4 ≤ s.inLen.toNat → 0x7FFFFFFF < s.ibuf.word32 0 →
      s.decodeFails .lengthTooLarge (BitVec.ofNat 32 (s.ibuf.word32 0)) 0) ∧
    (4 ≤ s.inLen.toNat → s.inLen.toNat < 8 → s.ibuf.word32 0 ≤ 0x7FFFFFFF → s.decodeFails .bufferTooShort 0 0) ∧
    (8 ≤ s.inLen.toNat → s.ibuf.word32 0 ≤ 0x7FFFFFFF → s.inLen.toNat < 8 + s.ibuf.word32 0 →
      s.decodeFails .incorrectLength (BitVec.ofNat 32 (s.ibuf.word32 0)) 0) ∧
    (s.ibuf.word32 0 ≤ 0x7FFFFFFF → 8 + s.ibuf.word32 0 ≤ s.inLen.toNat → s.inLen.toNat ≠ 12 + s.ibuf.word32 0 →
      s.decodeFails .crcFieldSize (BitVec.ofNat 32 (s.inLen.toNat - 8 - s.ibuf.word32 0)) 0) ∧
    (s.ibuf.word32 0 ≤ 0x7FFFFFFF → s.inLen.toNat = 12 + s.ibuf.word32 0 →
      s.ibuf.word32 (8 + s.ibuf.word32 0) ≠ (crc32 (s.ibuf.slice 4 (4 + s.ibuf.word32 0))).toNat →
      s.decodeFails .crcMismatch (BitVec.ofNat 32 (s.ibuf.word32 (8 + s.ibuf.word32 0)))
        (crc32 (s.ibuf.slice 4 (4 + s.ibuf.word32 0))))

/-- 41_frame.md R166, which the spec marks as derived from R164: what the slot holds after a DECODE that succeeds. -/
def Obligations.AcceptedFrameFillsSlot : Prop :=
  ∀ s t : State, exec .decode s = .next t → t.status.err = .ok →
    t.status.chValid = true ∧ t.chLength.toNat = s.ibuf.word32 0 ∧ t.chLength.toNat ≤ 0x7FFFFFFF ∧
    t.chType.toNat = s.ibuf.word32 4 ∧
    t.dbuf.slice 0 t.chLength.toNat = s.ibuf.slice 8 t.chLength.toNat ∧
    t.chCrc.toNat = s.ibuf.word32 (8 + t.chLength.toNat) ∧
    t.chCrc = crc32 (s.ibuf.slice 4 4 ++ s.ibuf.slice 8 t.chLength.toNat) ∧
    s.inLen.toNat = t.chLength.toNat + 12

/-- 41_frame.md R167: after a DECODE that fails, CH_VALID is 0, the rest of the slot is as before, and SERIALIZE then
completes with NO_CHUNK. -/
def Obligations.FailedDecodeKeepsSlot : Prop :=
  ∀ s t : State, exec .decode s = .next t → t.status.err ≠ .ok →
    t.status.chValid = false ∧ s.keptSlot t ∧
    ∃ u, exec .serialize t = .next u ∧ u.status.err = .noChunk

/-- 41_frame.md R168, which the spec marks as derived from R164: a frame followed by more bytes is rejected with
CRC_FIELD_SIZE and the number of bytes after the data. -/
def Obligations.TrailingBytesAreRejected : Prop :=
  ∀ (b x : List Byte) (len : Word) (tag data : List Byte) (stored : Word),
    decodeFrame b = .frame len tag data stored → x ≠ [] → (b ++ x).length < 2 ^ 32 →
    decodeFrame (b ++ x) = .bad .crcFieldSize (BitVec.ofNat 32 (4 + x.length)) 0

/-- 41_frame.md R173, which the spec marks as derived from R164: an accepted frame whose checksum field alone is
changed fails with CRC_MISMATCH, INFO0 the changed field and INFO1 the recomputed checksum. -/
def Obligations.TamperedChecksumIsMismatch : Prop :=
  ∀ s s' t : State, exec .decode s = .next t → t.status.err = .ok →
    s'.inLen = s.inLen → (∀ a, a < 8 + s.ibuf.word32 0 → s'.ibuf.read a = s.ibuf.read a) →
    s'.ibuf.word32 (8 + s.ibuf.word32 0) ≠ s.ibuf.word32 (8 + s.ibuf.word32 0) →
    s'.decodeFails .crcMismatch (BitVec.ofNat 32 (s'.ibuf.word32 (8 + s.ibuf.word32 0)))
      (crc32 (s.ibuf.slice 4 (4 + s.ibuf.word32 0)))

/-- 41_frame.md R170: SERIALIZE writes the slot to OBUF as a frame, with the stored checksum, and leaves OBUF from
offset L + 12 up. -/
def Obligations.SerializeWritesFrame : Prop :=
  ∀ s : State, s.status.chValid = true → s.chLength.toNat ≤ Config.bufSize →
    ∃ t, exec .serialize s = .next t ∧ t.outLen.toNat = s.chLength.toNat + 12 ∧
      t.obuf.word32 0 = s.chLength.toNat ∧ t.obuf.word32 4 = s.chType.toNat ∧
      (∀ a, a < s.chLength.toNat → t.obuf.read (8 + a) = s.dbuf.read a) ∧
      t.obuf.word32 (8 + s.chLength.toNat) = s.chCrc.toNat ∧
      (∀ a, s.chLength.toNat + 12 ≤ a → t.obuf.read a = s.obuf.read a) ∧
      t.status.chValid = true ∧ s.reports t .ok 0 0 ∧
      s.keptInputs t ∧ s.keptTag t ∧ t.crcResult = s.crcResult ∧ s.keptSlot t ∧ s.keptModel t

/-- 60_exceptions.md R240: SERIALIZE with CH_VALID = 0 completes with NO_CHUNK, and nothing else changes. -/
def Obligations.SerializeWithoutChunk : Prop :=
  ∀ s : State, s.status.chValid = false →
    ∃ t, exec .serialize s = .next t ∧ s.reports t .noChunk 0 0 ∧ t.status.chValid = false ∧
      s.keptInputs t ∧ s.keptTag t ∧ t.crcResult = s.crcResult ∧ s.keptSlot t ∧ s.keptOut t ∧ s.keptModel t

/-- The model's one stop (log 9, DEDUCED from 20_memory.md R60 and R71): SERIALIZE faults exactly when the slot's
length is above BUF_SIZE, which 10_state.md R41 rules out. -/
def Obligations.SerializeStopsOnlyOutsideBuffers : Prop :=
  ∀ s : State, exec .serialize s = .fault .bufferRange ↔
    s.status.chValid = true ∧ Config.bufSize < s.chLength.toNat

/-- 41_frame.md R170: SERIALIZE may be repeated: a second run changes nothing at all. -/
def Obligations.SerializeRepeats : Prop :=
  ∀ s t : State, s.Inv → exec .serialize s = .next t → exec .serialize t = .next t

/-- 41_frame.md R171, which the spec marks as derived from R166 and R170: SERIALIZE is the inverse of DECODE. `u` is
any later state with the slot that DECODE left. -/
def Obligations.SerializeInvertsDecode : Prop :=
  ∀ s t u : State, exec .decode s = .next t → t.status.err = .ok →
    u.status.chValid = t.status.chValid → u.chLength = t.chLength → u.chType = t.chType → u.chCrc = t.chCrc →
    (∀ a, a < t.chLength.toNat → u.dbuf.read a = t.dbuf.read a) →
    ∃ v, exec .serialize u = .next v ∧ v.status.err = .ok ∧ v.outLen = s.inLen ∧
      ∀ a, a < s.inLen.toNat → v.obuf.read a = s.ibuf.read a

/-- 41_frame.md R172, which the spec marks as derived from R161, R164 and R170: ENCODE, then SERIALIZE, then DECODE of
the bytes written gives back the tag, the length and the data, for every tag. -/
def Obligations.EncodeSerializeDecodeRoundTrip : Prop :=
  ∀ s : State, s.inLen.toNat ≤ 0x7FFFFFFF → s.inLen.toNat + 12 ≤ Config.bufSize →
    ∃ t u, exec .encode s = .next t ∧ exec .serialize t = .next u ∧
      ∀ v : State, v.inLen.toNat = s.inLen.toNat + 12 →
        (∀ a, a < s.inLen.toNat + 12 → v.ibuf.read a = u.obuf.read a) →
        ∃ w, exec .decode v = .next w ∧ w.status.err = .ok ∧ w.status.chValid = true ∧ w.chLength = s.inLen ∧
          w.chType = s.tReg ∧ ∀ a, a < s.inLen.toNat → w.dbuf.read a = s.ibuf.read a

/-- 41_frame.md R175, which the spec marks as derived from R161, R163 and R164: what ENCODE and DECODE do is a
function of their operands alone: IN_LEN, IBUF[0..IN_LEN), and for ENCODE also TYPE. -/
def Obligations.EncodeDecodeDependOnOperandsAlone : Prop :=
  ∀ (i : Instr) (s s' t : State), i = .decode ∨ (i = .encode ∧ s'.tReg = s.tReg) →
    s'.inLen = s.inLen → (∀ a, a < s.inLen.toNat → s'.ibuf.read a = s.ibuf.read a) → exec i s = .next t →
    ∃ t', exec i s' = .next t' ∧ t'.status.err = t.status.err ∧ t'.info0 = t.info0 ∧ t'.info1 = t.info1 ∧
      t'.status.chValid = t.status.chValid ∧
      (t.status.err = .ok → t'.chLength = t.chLength ∧ t'.chType = t.chType ∧ t'.chCrc = t.chCrc ∧
        ∀ a, a < t.chLength.toNat → t'.dbuf.read a = t.dbuf.read a)

/-! ## The CRC engine -/

/-- 42_crc.md R205: CRC checksums exactly IBUF[0..IN_LEN) into CRC_RESULT and touches nothing else. -/
def Obligations.CrcChecksumsInput : Prop :=
  ∀ s : State, s.inLen.toNat ≤ Config.bufSize →
    ∃ t, exec .crc s = .next t ∧ t.crcResult = crc32 (s.ibuf.slice 0 s.inLen.toNat) ∧ s.reports t .ok 0 0 ∧
      t.status.chValid = s.status.chValid ∧ s.keptInputs t ∧ s.keptTag t ∧ s.keptSlot t ∧ s.keptOut t ∧
      s.keptModel t

/-- 42_crc.md R202, which the spec marks as general knowledge: the table method computes the same checksum as the
bitwise loop, and the table has the entries that R202 lists. -/
def Obligations.TableMethodEqualsBitwise : Prop :=
  (∀ s : List Byte, crc32Table s = crc32 s) ∧
  crcTable 0 = 0x00000000#32 ∧ crcTable 1 = 0x77073096#32 ∧ crcTable 2 = 0xEE0E612C#32 ∧
  crcTable 128 = 0xEDB88320#32 ∧ crcTable 255 = 0x2D02EF8D#32

/-- 42_crc.md R201, which the spec marks as general knowledge (residue 0xDEBB20E3): a sequence followed by its own
checksum, low byte first, leaves the residue, whatever the sequence. -/
def Obligations.ChecksumResidueIsConstant : Prop :=
  ∀ s : List Byte,
    crcFold 0xFFFFFFFF#32 (s ++ [(crc32 s).extractLsb' 0 8, (crc32 s).extractLsb' 8 8,
      (crc32 s).extractLsb' 16 8, (crc32 s).extractLsb' 24 8]) = 0xDEBB20E3#32

/-! ## The host port -/

/-- 20_memory.md R65, R66: the response is BUSERR exactly when the access is not legal. -/
def Obligations.BusErrorExactlyOnIllegalAccess : Prop :=
  ∀ (s : State) (a : Access), s.respond a = .busErr ↔ a.legal = false

/-- 20_memory.md R67: a refused access gets BUSERR and leaves the core's state unchanged. That legality is settled
before BUSY is looked at is the model's deduction (log 11), and the draw counter, which a refused access does not
move, is the model's own (log 5). -/
def Obligations.RefusedAccessChangesNothing : Prop :=
  ∀ (s : State) (a : Access) (rest : List HostOp), s.hostMoves (.access a) rest → a.legal = false →
    ∃ t, step s = .next t ∧ s.hostWentOn t rest .busErr ∧ s.keptCore t ∧ t.draws = s.draws

/-- 10_state.md R40, 20_memory.md R66: a write to a read-only register, to DBUF or to OBUF is ignored with response
OK, at any time, and does not set WERR. -/
def Obligations.ReadOnlyWritesAreIgnored : Prop :=
  (∀ (s : State) (r : Reg) (v : Word) (rest : List HostOp),
    r = .cap ∨ r = .type ∨ r = .typeProps ∨ r = .textErr ∨ r = .crcResult ∨ r = .chLength ∨ r = .chType ∨
      r = .chCrc ∨ r = .outLen ∨ r = .info0 ∨ r = .info1 →
    s.hostMoves (.access (.write .reg r.offset .w32 v)) rest →
    ∃ t, step s = .next t ∧ s.hostWentOn t rest .ok ∧ s.keptCore t) ∧
  (∀ (s : State) (sp : Space) (off v : Word) (rest : List HostOp),
    sp = .dbuf ∨ sp = .obuf → off.toNat < sp.size →
    s.hostMoves (.access (.write sp off .w8 v)) rest →
    ∃ t, step s = .next t ∧ s.hostWentOn t rest .ok ∧ s.keptCore t)

/-- 70_reset_and_hazards.md R265: a write to CMD, IN_LEN or ARG_TYPE, or to a byte of IBUF, while BUSY is dropped: it
gets OK, sets WERR, and changes nothing else. -/
def Obligations.BusyWritesAreDropped : Prop :=
  (∀ (s : State) (r : Reg) (v : Word) (rest : List HostOp), s.status.busy = true →
    r = .cmd ∨ r = .inLen ∨ r = .argType →
    s.hostMoves (.access (.write .reg r.offset .w32 v)) rest →
    ∃ t, step s = .next t ∧ s.hostWentOn t rest .ok ∧ t.status = { s.status with werr := true } ∧
      s.keptAllButStatus t) ∧
  (∀ (s : State) (off v : Word) (rest : List HostOp), s.status.busy = true → off.toNat < Config.bufSize →
    s.hostMoves (.access (.write .ibuf off .w8 v)) rest →
    ∃ t, step s = .next t ∧ s.hostWentOn t rest .ok ∧ t.status = { s.status with werr := true } ∧
      s.keptAllButStatus t)

/-- 10_state.md R27: a write to STATUS clears WERR when bit 2 of the word is 1, changes no other bit, and is taken
whether or not BUSY is set. -/
def Obligations.StatusWriteClearsWerr : Prop :=
  ∀ (s : State) (v : Word) (rest : List HostOp),
    s.hostMoves (.access (.write .reg 0x08 .w32 v)) rest →
    ∃ t, step s = .next t ∧ s.hostWentOn t rest .ok ∧
      t.status = (if v.getLsbD 2 = true then { s.status with werr := false } else s.status) ∧ s.keptAllButStatus t

/-- 10_state.md R28, R29, 20_memory.md R66: a write to IN_LEN, ARG_TYPE or a byte of IBUF while idle is taken, and
changes nothing else. -/
def Obligations.IdleWritesAreTaken : Prop :=
  (∀ (s : State) (v : Word) (rest : List HostOp), s.status.busy = false →
    s.hostMoves (.access (.write .reg 0x0C .w32 v)) rest →
    ∃ t, step s = .next t ∧ s.hostWentOn t rest .ok ∧ t.inLen = v ∧ t.status = s.status ∧ t.argType = s.argType ∧
      t.curCmd = s.curCmd ∧ s.ibuf.sameBytes t.ibuf ∧ s.keptTag t ∧ t.crcResult = s.crcResult ∧ s.keptSlot t ∧
      s.keptOut t ∧ s.keptInfo t) ∧
  (∀ (s : State) (v : Word) (rest : List HostOp), s.status.busy = false →
    s.hostMoves (.access (.write .reg 0x10 .w32 v)) rest →
    ∃ t, step s = .next t ∧ s.hostWentOn t rest .ok ∧ t.argType = v ∧ t.status = s.status ∧ t.inLen = s.inLen ∧
      t.curCmd = s.curCmd ∧ s.ibuf.sameBytes t.ibuf ∧ s.keptTag t ∧ t.crcResult = s.crcResult ∧ s.keptSlot t ∧
      s.keptOut t ∧ s.keptInfo t) ∧
  (∀ (s : State) (off v : Word) (rest : List HostOp), s.status.busy = false → off.toNat < Config.bufSize →
    s.hostMoves (.access (.write .ibuf off .w8 v)) rest →
    ∃ t, step s = .next t ∧ s.hostWentOn t rest .ok ∧
      (∀ a, t.ibuf.read a = if a = off.toNat then v.setWidth 8 else s.ibuf.read a) ∧ t.status = s.status ∧
      t.inLen = s.inLen ∧ t.argType = s.argType ∧ t.curCmd = s.curCmd ∧ s.keptTag t ∧ t.crcResult = s.crcResult ∧
      s.keptSlot t ∧ s.keptOut t ∧ s.keptInfo t)

/-- 70_reset_and_hazards.md R264: while BUSY, CAP, CMD, IN_LEN, ARG_TYPE, IBUF and the fields BUSY, DONE, WERR and ERR
of STATUS read exactly (DONE and ERR read 0 in a state with the invariant), the reserved bits of STATUS read 0
(10_state.md R26), and the other registers, CH_VALID, TYPE_EQ, DBUF and OBUF read a free draw (log 4). While idle,
every read is exact. -/
def Obligations.ReadsAreExactOrFree : Prop :=
  (∀ s : State, s.status.busy = true →
    s.respond (.read .reg 0x00 .w32) = .okWord (BitVec.ofNat 32 Config.bufSize) ∧
    s.respond (.read .reg 0x04 .w32) = .okWord 0 ∧
    s.respond (.read .reg 0x0C .w32) = .okWord s.inLen ∧
    s.respond (.read .reg 0x10 .w32) = .okWord s.argType ∧
    (∀ off : Word, off.toNat < Config.bufSize →
      s.respond (.read .ibuf off .w8) = .okByte (s.ibuf.read off.toNat)) ∧
    (∃ w : Word, s.respond (.read .reg 0x08 .w32) = .okWord w ∧ w.getLsbD 0 = true ∧
      w.getLsbD 1 = s.status.done ∧ w.getLsbD 2 = s.status.werr ∧ w.extractLsb' 8 4 = s.status.err.number ∧
      w.getLsbD 3 = (Config.freeWord s.draws).getLsbD 3 ∧ w.getLsbD 4 = (Config.freeWord s.draws).getLsbD 4 ∧
      (∀ i, (5 ≤ i ∧ i ≤ 7) ∨ (12 ≤ i ∧ i ≤ 31) → w.getLsbD i = false) ∧
      (s.Inv → w.getLsbD 1 = false ∧ w.extractLsb' 8 4 = 0)) ∧
    (∀ r : Reg, r = .type ∨ r = .typeProps ∨ r = .textErr ∨ r = .crcResult ∨ r = .chLength ∨ r = .chType ∨
        r = .chCrc ∨ r = .outLen ∨ r = .info0 ∨ r = .info1 →
      s.respond (.read .reg r.offset .w32) = .okWord (Config.freeWord s.draws)) ∧
    (∀ (sp : Space) (off : Word), sp = .dbuf ∨ sp = .obuf → off.toNat < sp.size →
      s.respond (.read sp off .w8) = .okByte ((Config.freeWord s.draws).setWidth 8))) ∧
  (∀ s : State, s.status.busy = false →
    (∀ r : Reg, s.respond (.read .reg r.offset .w32) = .okWord (s.regValue r)) ∧
    (∀ off : Word, off.toNat < Config.bufSize →
      s.respond (.read .ibuf off .w8) = .okByte (s.ibuf.read off.toNat) ∧
      s.respond (.read .dbuf off .w8) = .okByte (s.dbuf.read off.toNat)) ∧
    (∀ off : Word, off.toNat < Config.bufSize + 12 →
      s.respond (.read .obuf off .w8) = .okByte (s.obuf.read off.toNat)))

/-- 20_memory.md R73, which the spec marks as derived, and 93_implementation_defined.md P5: a host read has no side
effect on the core, and a read made while BUSY counts one draw, so that the next one is drawn afresh (the counter is
the model's choice, log 5). -/
def Obligations.HostReadHasNoSideEffect : Prop :=
  ∀ (s : State) (sp : Space) (off : Word) (w : Width) (rest : List HostOp),
    s.hostMoves (.access (.read sp off w)) rest → (Access.read sp off w).legal = true →
    ∃ t r, step s = .next t ∧ s.hostWentOn t rest r ∧ r = s.respond (.read sp off w) ∧ s.keptCore t ∧
      t.draws = if s.status.busy = true then s.draws + 1 else s.draws

/-- 30_encoding.md R100: POLL reads STATUS, getting what RD32 STATUS gets, and repeats while bit 0 of the value read,
BUSY, is 1. That it is one entry of the host's program is the model's choice (log 7, log 13). -/
def Obligations.PollRepeatsWhileBusy : Prop :=
  ∀ (s : State) (rest : List HostOp), s.hostMoves .poll rest →
    ∃ t w, step s = .next t ∧ s.respond (.read .reg 0x08 .w32) = .okWord w ∧
      t.responses = .okWord w :: s.responses ∧ w.getLsbD 0 = s.status.busy ∧
      t.pending = (if w.getLsbD 0 = true then .poll :: rest else rest) ∧ s.keptCore t

/-- 20_memory.md R77, which the spec marks as derived, and 70_reset_and_hazards.md R265: no host step but the reset
event changes anything of a command in progress: its word, its operands, and every result register and buffer. Only
WERR may change. The count of host steps before the completion is the model's choice (log 6). -/
def Obligations.CommandInProgressIsUntouched : Prop :=
  ∀ (s t : State) (op : HostOp) (rest : List HostOp), s.status.busy = true → s.hostMoves op rest → op ≠ .reset →
    step s = .next t →
    t.status = { s.status with werr := t.status.werr } ∧ s.keptAllButStatus t ∧ t.hostFirst + 1 = s.hostFirst

/-- 20_memory.md R77, which the spec marks as derived, and 10_state.md R21; the counter is the model's choice (log 6):
whatever the host does before the completion, short of the reset event, the engine comes to move on a state with the
same command, operands and earlier results. -/
def Obligations.HostStepsDoNotChangeTheResult : Prop :=
  ∀ s : State, s.status.busy = true → (∀ op ∈ s.pending.take s.hostFirst, op ≠ .reset) →
    ∃ k t, k ≤ s.hostFirst ∧ Host.Core.run Sys2Proof.core k s = .next t ∧ t.engineMoves ∧
      t.status = { s.status with werr := t.status.werr } ∧ s.keptAllButStatus t

/-- 10_state.md R21, 70_reset_and_hazards.md R261, R267: a command in progress completes, with BUSY = 0 and DONE = 1,
after finitely many steps, at most the number of host steps that go before it, and one, where those host steps hold no
reset event. With a reset event among them, which aborts the command, BUSY falls within the same bound. The number is
the model's plain data (log 6). -/
def Obligations.CommandCompletesWithinItsDelay : Prop :=
  ∀ s : State, s.Inv → s.status.busy = true →
    ((∀ op ∈ s.pending.take s.hostFirst, op ≠ .reset) →
      ∃ k t, k ≤ s.hostFirst + 1 ∧ Host.Core.run Sys2Proof.core k s = .next t ∧ t.status.busy = false ∧
        t.status.done = true ∧ t.curCmd = s.curCmd) ∧
    (∃ k t, k ≤ s.hostFirst + 1 ∧ Host.Core.run Sys2Proof.core k s = .next t ∧ t.status.busy = false)

/-- 95_test_vectors.md P4, 10_state.md R21 (which order happens is the model's plain data, log 6): a write of IN_LEN
that races with a CRC in progress has two outcomes, one for each order, and the checksum is the same in both. -/
def Obligations.WriteRacesWithCompletion : Prop :=
  ∀ (s : State) (v : Word) (rest : List HostOp), s.status.busy = true → s.curCmd = 0x00000006 →
    s.inLen.toNat ≤ Config.bufSize → s.pending = .access (.write .reg 0x0C .w32 v) :: rest →
    (s.hostFirst = 1 →
      ∃ t, Host.Core.run Sys2Proof.core 2 s = .next t ∧ t.status.busy = false ∧ t.inLen = s.inLen ∧
        t.status.werr = true ∧ t.crcResult = crc32 (s.ibuf.slice 0 s.inLen.toNat)) ∧
    (s.hostFirst = 0 →
      ∃ t, Host.Core.run Sys2Proof.core 2 s = .next t ∧ t.status.busy = false ∧ t.inLen = v ∧
        t.status.werr = s.status.werr ∧ t.crcResult = crc32 (s.ibuf.slice 0 s.inLen.toNat))

/-! ## Reset -/

/-- 70_reset_and_hazards.md R260, R261, R262: the reset event, at any time, leaves every register at its reset value
and CUR_CMD 0, aborts a command in progress, and leaves every buffer byte a byte of an arbitrary array chosen then:
the arrays of the next three draws, which no later draw uses again. The draw counter (log 1, log 5) and that the
host's program goes on (log 10) are the model's choices. -/
def Obligations.ResetEventRestoresResetState : Prop :=
  ∀ (s : State) (rest : List HostOp), s.hostMoves .reset rest →
    ∃ t, step s = .next t ∧ t.status = State.reset.status ∧ t.inLen = 0 ∧ t.argType = 0 ∧ t.tReg = 0 ∧
      t.textErr = 0 ∧ t.crcResult = 0 ∧ t.chLength = 0 ∧ t.chType = 0 ∧ t.chCrc = 0 ∧ t.outLen = 0 ∧ t.info0 = 0 ∧
      t.info1 = 0 ∧ t.curCmd = 0 ∧ (∀ r : Reg, t.regValue r = State.reset.regValue r) ∧
      (∀ a, t.ibuf.read a = Config.resetByte s.draws a) ∧ (∀ a, t.dbuf.read a = Config.resetByte (s.draws + 1) a) ∧
      (∀ a, t.obuf.read a = Config.resetByte (s.draws + 2) a) ∧ t.draws = s.draws + 3 ∧
      t.pending = rest ∧ t.responses = s.responses

/-- 10_state.md R23, 70_reset_and_hazards.md R260: what every register reads after reset. -/
def Obligations.ResetRegisterValues : Prop :=
  ∀ r : Reg, State.reset.respond (.read .reg r.offset .w32) = .okWord (match r with
    | .cap => BitVec.ofNat 32 Config.bufSize
    | .cmd => 0
    | .status => 0x00000010
    | .inLen => 0
    | .argType => 0
    | .type => 0
    | .typeProps => (match Config.caseRule with
      | .asciiClass => 0x00000000
      | .bit5 => 0x00000707)
    | .textErr => 0
    | .crcResult => 0
    | .chLength => 0
    | .chType => 0
    | .chCrc => 0
    | .outLen => 0
    | .info0 => 0
    | .info1 => 0)

/-! ## The whole machine -/

/-- The reset state meets the invariant. -/
def Obligations.ResetHasInvariant : Prop := State.reset.Inv

/-- Every step, the engine's or the host's, keeps the invariant: the canonical form of the buffers inside their sizes,
the chunk slot of 10_state.md R41, DONE and ERR 0 while BUSY (R26), TEXT_ERR's reserved bits, and OUT_LEN inside OBUF.
-/
def Obligations.StepKeepsInvariant : Prop := ∀ s t : State, s.Inv → step s = .next t → t.Inv

/-- 10_state.md R41, which the spec marks as derived: whenever CH_VALID = 1, CH_LENGTH is at most BUF_SIZE and CH_CRC
is the checksum of the tag and the data: it holds after reset, and every step keeps it. -/
def Obligations.ValidSlotHoldsItsChecksum : Prop :=
  State.reset.SlotHolds ∧ ∀ s t : State, s.SlotHolds → step s = .next t → t.SlotHolds

/-- From a state with the invariant no step stops: the machine has no stuck state (93_implementation_defined.md part
2: no item has the treatment `stuck`). -/
def Obligations.StepNeverStops : Prop := ∀ s : State, s.Inv → ∃ t, step s = .next t

/-- 10_state.md R23 (column "written by"), R26, 30_encoding.md R93 (marked as derived): a step that changes a
register, a field of STATUS or a buffer byte is one of those that may: the named commands, the named host writes, or
the reset event. BUSY, DONE and ERR change by a completion or an acceptance; WERR is set by a dropped write while BUSY
and cleared by a write of 1 to bit 2 of STATUS. -/
def Obligations.OnlyNamedWritersChangeRegisters : Prop :=
  ∀ s t : State, step s = .next t → (∀ rest, ¬s.hostMoves .reset rest) →
    (t.tReg ≠ s.tReg → s.engineMoves ∧ (decode s.curCmd = .ok .tfraw ∨ decode s.curCmd = .ok .tftext)) ∧
    (t.textErr ≠ s.textErr → s.engineMoves ∧ decode s.curCmd = .ok .tftext) ∧
    (t.crcResult ≠ s.crcResult → s.engineMoves ∧ decode s.curCmd = .ok .crc) ∧
    (¬s.keptSlot t ∨ t.status.chValid ≠ s.status.chValid →
      s.engineMoves ∧ (decode s.curCmd = .ok .encode ∨ decode s.curCmd = .ok .decode)) ∧
    (¬s.keptOut t → s.engineMoves ∧ decode s.curCmd = .ok .serialize) ∧
    (¬s.keptInfo t → s.engineMoves) ∧
    (t.inLen ≠ s.inLen → s.status.busy = false ∧ ∃ v rest, s.pending = .access (.write .reg 0x0C .w32 v) :: rest) ∧
    (t.argType ≠ s.argType →
      s.status.busy = false ∧ ∃ v rest, s.pending = .access (.write .reg 0x10 .w32 v) :: rest) ∧
    (t.curCmd ≠ s.curCmd →
      s.status.busy = false ∧ ∃ v rest, s.pending = .access (.write .reg 0x04 .w32 v) :: rest) ∧
    (¬s.ibuf.sameBytes t.ibuf →
      s.status.busy = false ∧ ∃ off v rest, s.pending = .access (.write .ibuf off .w8 v) :: rest) ∧
    (t.status.busy ≠ s.status.busy ∨ t.status.done ≠ s.status.done ∨ t.status.err ≠ s.status.err →
      s.engineMoves ∨
        (s.status.busy = false ∧ ∃ v rest, s.pending = .access (.write .reg 0x04 .w32 v) :: rest)) ∧
    (s.status.werr = false ∧ t.status.werr = true →
      s.status.busy = true ∧ ∃ sp off w v rest, s.hostMoves (.access (.write sp off w v)) rest ∧
        ((sp = .reg ∧ w = .w32 ∧ (off = 0x04 ∨ off = 0x0C ∨ off = 0x10)) ∨ (sp = .ibuf ∧ w = .w8))) ∧
    (s.status.werr = true ∧ t.status.werr = false →
      ∃ v rest, s.hostMoves (.access (.write .reg 0x08 .w32 v)) rest ∧ v.getLsbD 2 = true)
end

