-- ==== Sys2Proof/Laws/Memory.lean ====
section
/-! SUPPORT. The laws of the byte buffers: a read after a write, what a write leaves alone, ranges of bytes, the
canonical form and that every operation keeps it, and that two canonical buffers with the same bytes are equal. -/

namespace Sys2Proof.Machine

/-! ## Cells -/

theorem cellsFind_put (cs : List Host.Cell) (a b : Nat) (v : Byte) :
    cellsFind (cellsPut cs a v) b = if a = b then some v else cellsFind cs b := by
  induction cs with
  | nil => simp [cellsPut, cellsFind]
  | cons c cs ih =>
    unfold cellsPut
    split_ifs with h1 h2
    all_goals simp_all [cellsFind]
    all_goals intros; omega

theorem cellsFind_drop (cs : List Host.Cell) (a b : Nat) :
    cellsFind (cellsDrop cs a) b = if a = b then none else cellsFind cs b := by
  induction cs with
  | nil => simp [cellsDrop, cellsFind]
  | cons c cs ih =>
    unfold cellsDrop
    split_ifs with h1 h2
    all_goals simp_all [cellsFind]

theorem mem_cellsPut {cs : List Host.Cell} {a : Nat} {v : Byte} {c : Host.Cell} (h : c ∈ cellsPut cs a v) :
    c = (a, v) ∨ c ∈ cs := by
  induction cs with
  | nil => simpa [cellsPut] using h
  | cons d cs ih =>
    unfold cellsPut at h
    split_ifs at h <;> simp only [List.mem_cons] at h ⊢ <;> tauto

theorem mem_cellsDrop {cs : List Host.Cell} {a : Nat} {c : Host.Cell} (h : c ∈ cellsDrop cs a) : c ∈ cs := by
  induction cs with
  | nil => simp [cellsDrop] at h
  | cons d cs ih =>
    unfold cellsDrop at h
    split_ifs at h <;> simp only [List.mem_cons] at h ⊢ <;> tauto

theorem pairwise_cellsDrop {cs : List Host.Cell} (a : Nat) (h : cs.Pairwise (fun c d => c.1 < d.1)) :
    (cellsDrop cs a).Pairwise (fun c d => c.1 < d.1) := by
  induction cs with
  | nil => simp [cellsDrop]
  | cons d cs ih =>
    rw [List.pairwise_cons] at h
    unfold cellsDrop
    split_ifs
    · exact ih h.2
    · exact List.pairwise_cons.2 ⟨fun c hc => h.1 c (mem_cellsDrop hc), ih h.2⟩

theorem pairwise_cellsPut {cs : List Host.Cell} (a : Nat) (v : Byte) (h : cs.Pairwise (fun c d => c.1 < d.1)) :
    (cellsPut cs a v).Pairwise (fun c d => c.1 < d.1) := by
  induction cs with
  | nil => simp [cellsPut]
  | cons d cs ih =>
    have hd := List.pairwise_cons.1 h
    unfold cellsPut
    split_ifs with h1 h2
    · refine List.pairwise_cons.2 ⟨fun c hc => ?_, h⟩
      rcases List.mem_cons.1 hc with rfl | hc
      · exact h1
      · exact Nat.lt_trans h1 (hd.1 c hc)
    · exact List.pairwise_cons.2 ⟨fun c hc => by rw [h2]; exact hd.1 c hc, hd.2⟩
    · refine List.pairwise_cons.2 ⟨fun c hc => ?_, ih hd.2⟩
      rcases mem_cellsPut hc with rfl | hc
      · show d.1 < a; omega
      · exact hd.1 c hc

theorem cellsFind_of_mem {cs : List Host.Cell} {c : Host.Cell} (h : cs.Pairwise (fun c d => c.1 < d.1)) (hc : c ∈ cs) :
    cellsFind cs c.1 = some c.2 := by
  induction cs with
  | nil => simp at hc
  | cons d cs ih =>
    rw [List.pairwise_cons] at h
    rcases List.mem_cons.1 hc with rfl | hc
    · simp [cellsFind]
    · have := h.1 c hc
      simp [cellsFind, ih h.2 hc, Nat.ne_of_lt this]

theorem mem_of_cellsFind {cs : List Host.Cell} {a : Nat} {v : Byte} (h : cellsFind cs a = some v) : (a, v) ∈ cs := by
  induction cs with
  | nil => simp [cellsFind] at h
  | cons d cs ih =>
    unfold cellsFind at h
    split_ifs at h with h1
    · rcases d with ⟨k, w⟩; simp_all
    · exact List.mem_cons_of_mem _ (ih h)

/-! ## One byte -/

@[simp] theorem Memory.write_seed (m : Memory) (a : Nat) (v : Byte) : (m.write a v).seed = m.seed := rfl

@[simp] theorem Memory.write_unlisted (m : Memory) (a b : Nat) (v : Byte) :
    (m.write a v).unlisted b = m.unlisted b := rfl

/-- A read after a write: the byte written, and every other byte as before. -/
theorem Memory.read_write (m : Memory) (a b : Nat) (v : Byte) :
    (m.write a v).read b = if a = b then v else m.read b := by
  have hu : (m.write a v).unlisted b = m.unlisted b := rfl
  have hc : (m.write a v).cells = if v = m.unlisted a then cellsDrop m.cells a else cellsPut m.cells a v := rfl
  rw [Memory.read, hu, hc, Memory.read]
  by_cases hv : v = m.unlisted a <;> by_cases hab : a = b
  · rw [if_pos hv, cellsFind_drop, if_pos hab, if_pos hab, hv, hab]; rfl
  · rw [if_pos hv, cellsFind_drop, if_neg hab, if_neg hab]
  · rw [if_neg hv, cellsFind_put, if_pos hab, if_pos hab]; rfl
  · rw [if_neg hv, cellsFind_put, if_neg hab, if_neg hab]

theorem Memory.read_write_same (m : Memory) (a : Nat) (v : Byte) : (m.write a v).read a = v := by
  simp [Memory.read_write]

theorem Memory.read_write_other (m : Memory) {a b : Nat} (v : Byte) (h : a ≠ b) : (m.write a v).read b = m.read b := by
  simp [Memory.read_write, h]

/-! ## Ranges -/

@[simp] theorem Memory.length_slice (m : Memory) (a n : Nat) : (m.slice a n).length = n := by
  induction n generalizing a with
  | zero => rfl
  | succ n ih => simp [Memory.slice, ih]

theorem Memory.getElem?_slice (m : Memory) (a n i : Nat) :
    (m.slice a n)[i]? = if i < n then some (m.read (a + i)) else none := by
  induction n generalizing a i with
  | zero => simp [Memory.slice]
  | succ n ih =>
    cases i with
    | zero => simp [Memory.slice]
    | succ i => simp [Memory.slice, ih, Nat.add_assoc, Nat.add_comm 1 i]

theorem Memory.getElem_slice (m : Memory) (a n i : Nat) (h : i < (m.slice a n).length) :
    (m.slice a n)[i] = m.read (a + i) := by
  have hi : i < n := by simpa using h
  have := m.getElem?_slice a n i
  rw [List.getElem?_eq_getElem h, if_pos hi] at this
  exact Option.some.inj this

/-- A range depends on the bytes it covers alone. -/
theorem Memory.slice_congr {m m' : Memory} {a n : Nat} (h : ∀ i, i < n → m'.read (a + i) = m.read (a + i)) :
    m'.slice a n = m.slice a n := by
  apply List.ext_getElem?
  intro i
  rw [Memory.getElem?_slice, Memory.getElem?_slice]
  split_ifs with hi
  · rw [h i hi]
  · rfl

theorem Memory.eq_slice {m : Memory} {a : Nat} {vs : List Byte}
    (h : ∀ i (hi : i < vs.length), m.read (a + i) = vs[i]) : m.slice a vs.length = vs := by
  apply List.ext_getElem
  · simp
  · intro i h1 h2
    rw [Memory.getElem_slice, h i h2]

theorem Memory.take_slice (m : Memory) {a n k : Nat} (h : k ≤ n) : (m.slice a n).take k = m.slice a k := by
  apply List.ext_getElem?
  intro i
  rw [List.getElem?_take, Memory.getElem?_slice, Memory.getElem?_slice]
  split_ifs <;> first | rfl | omega

theorem Memory.drop_slice (m : Memory) (a n k : Nat) : (m.slice a n).drop k = m.slice (a + k) (n - k) := by
  apply List.ext_getElem?
  intro i
  rw [List.getElem?_drop, Memory.getElem?_slice, Memory.getElem?_slice, Nat.add_assoc]
  split_ifs <;> first | rfl | omega

theorem Memory.slice_append (m : Memory) (a n k : Nat) : m.slice a n ++ m.slice (a + n) k = m.slice a (n + k) := by
  rw [← List.take_append_drop n (m.slice a (n + k)), Memory.take_slice _ (Nat.le_add_right n k), Memory.drop_slice,
    Nat.add_sub_cancel_left]

/-- A read after a range of writes. -/
theorem Memory.read_writeSeq (m : Memory) (a b : Nat) (vs : List Byte) :
    (m.writeSeq a vs).read b = if a ≤ b then vs.getD (b - a) (m.read b) else m.read b := by
  induction vs generalizing m a with
  | nil => simp [Memory.writeSeq]
  | cons v vs ih =>
    rw [Memory.writeSeq, ih, Memory.read_write]
    rcases Nat.lt_trichotomy a b with h | h | h
    · obtain ⟨k, rfl⟩ : ∃ k, b = a + 1 + k := ⟨b - (a + 1), by omega⟩
      have e : a + 1 + k - a = k + 1 := by omega
      have e2 : a + 1 + k - (a + 1) = k := by omega
      rw [if_pos (by omega), if_neg (by omega), if_pos (by omega), e, e2, List.getD_cons_succ]
    · subst h; rw [if_neg (by omega), if_pos rfl, if_pos (le_refl _), Nat.sub_self, List.getD_cons_zero]
    · rw [if_neg (by omega), if_neg (by omega), if_neg (by omega)]

theorem Memory.read_writeSeq_zero (m : Memory) (b : Nat) (vs : List Byte) :
    (m.writeSeq 0 vs).read b = vs.getD b (m.read b) := by
  simp [Memory.read_writeSeq]

theorem Memory.read_writeSeq_of_ge (m : Memory) {a b : Nat} (vs : List Byte) (h : a + vs.length ≤ b) :
    (m.writeSeq a vs).read b = m.read b := by
  rw [Memory.read_writeSeq, if_pos (by omega), List.getD_eq_default _ _ (by omega)]

/-- Reading back a range just written. -/
theorem Memory.slice_writeSeq (m : Memory) (a : Nat) (vs : List Byte) :
    (m.writeSeq a vs).slice a vs.length = vs := by
  apply Memory.eq_slice
  intro i hi
  rw [Memory.read_writeSeq, if_pos (by omega), Nat.add_sub_cancel_left, List.getD_eq_getElem _ _ hi]

@[simp] theorem Memory.writeSeq_seed (m : Memory) (a : Nat) (vs : List Byte) : (m.writeSeq a vs).seed = m.seed := by
  induction vs generalizing m a with
  | nil => rfl
  | cons v vs ih => rw [Memory.writeSeq, ih, Memory.write_seed]

/-! ## The canonical form -/

theorem Memory.wf_empty (seed : Nat) : ({ seed := seed, cells := [] } : Memory).wf :=
  ⟨List.Pairwise.nil, by simp⟩

theorem Memory.wf_write {m : Memory} (a : Nat) (v : Byte) (h : m.wf) : (m.write a v).wf := by
  obtain ⟨h1, h2⟩ := h
  by_cases hv : v = m.unlisted a
  · have e : (m.write a v).cells = cellsDrop m.cells a := by simp [Memory.write, hv]
    refine ⟨by rw [e]; exact pairwise_cellsDrop a h1, ?_⟩
    rw [e]
    exact fun c hc => h2 c (mem_cellsDrop hc)
  · have e : (m.write a v).cells = cellsPut m.cells a v := by simp [Memory.write, hv]
    refine ⟨by rw [e]; exact pairwise_cellsPut a v h1, ?_⟩
    rw [e]
    intro c hc
    rcases mem_cellsPut hc with rfl | hc
    · exact hv
    · exact h2 c hc

theorem Memory.below_write {m : Memory} {a size : Nat} (v : Byte) (h : m.below size) (ha : a < size) :
    (m.write a v).below size := by
  intro c hc
  simp only [Memory.write] at hc
  split_ifs at hc
  · exact h c (mem_cellsDrop hc)
  · rcases mem_cellsPut hc with rfl | hc
    · exact ha
    · exact h c hc

theorem Memory.sound_empty (seed size : Nat) : ({ seed := seed, cells := [] } : Memory).sound size :=
  ⟨Memory.wf_empty seed, by simp⟩

theorem Memory.sound_write {m : Memory} {a size : Nat} (v : Byte) (h : m.sound size) (ha : a < size) :
    (m.write a v).sound size :=
  ⟨Memory.wf_write a v h.1, Memory.below_write v h.2 ha⟩

theorem Memory.sound_writeSeq {m : Memory} {a size : Nat} {vs : List Byte} (h : m.sound size)
    (ha : a + vs.length ≤ size) : (m.writeSeq a vs).sound size := by
  induction vs generalizing m a with
  | nil => exact h
  | cons v vs ih =>
    rw [List.length_cons] at ha
    exact ih (Memory.sound_write v h (by omega)) (by omega)

theorem cells_ext {cs ds : List Host.Cell} (h1 : cs.Pairwise (fun c d => c.1 < d.1))
    (h2 : ds.Pairwise (fun c d => c.1 < d.1)) (h3 : ∀ c, c ∈ cs ↔ c ∈ ds) : cs = ds := by
  induction cs generalizing ds with
  | nil =>
    cases ds with
    | nil => rfl
    | cons d ds => exact absurd ((h3 d).2 (by simp)) (by simp)
  | cons c cs ih =>
    cases ds with
    | nil => exact absurd ((h3 c).1 (by simp)) (by simp)
    | cons d ds =>
      rw [List.pairwise_cons] at h1 h2
      have hcd : c = d := by
        have hc : c ∈ d :: ds := (h3 c).1 (by simp)
        have hd : d ∈ c :: cs := (h3 d).2 (by simp)
        rcases List.mem_cons.1 hc with h | h
        · exact h
        · rcases List.mem_cons.1 hd with h' | h'
          · exact h'.symm
          · exact absurd (Nat.lt_trans (h1.1 d h') (h2.1 c h)) (Nat.lt_irrefl _)
      subst hcd
      congr 1
      refine ih h1.2 h2.2 fun e => ⟨fun he => ?_, fun he => ?_⟩
      · rcases List.mem_cons.1 ((h3 e).1 (List.mem_cons_of_mem _ he)) with h | h
        · subst h; exact absurd (h1.1 _ he) (Nat.lt_irrefl _)
        · exact h
      · rcases List.mem_cons.1 ((h3 e).2 (List.mem_cons_of_mem _ he)) with h | h
        · subst h; exact absurd (h2.1 _ he) (Nat.lt_irrefl _)
        · exact h

theorem Memory.mem_cells_iff {m : Memory} (h : m.wf) (c : Host.Cell) :
    c ∈ m.cells ↔ m.read c.1 = c.2 ∧ c.2 ≠ m.unlisted c.1 := by
  constructor
  · intro hc
    exact ⟨by simp [Memory.read, cellsFind_of_mem h.1 hc], h.2 c hc⟩
  · rintro ⟨h1, h2⟩
    unfold Memory.read at h1
    cases hf : cellsFind m.cells c.1 with
    | none => rw [hf] at h1; exact absurd h1.symm h2
    | some v =>
      rw [hf] at h1
      have := mem_of_cellsFind hf
      rw [show v = c.2 from h1] at this
      exact this

/-- Two canonical buffers of one seed with the same bytes are equal data. -/
theorem Memory.ext_read {m m' : Memory} (h : m.wf) (h' : m'.wf) (hs : m.seed = m'.seed)
    (hr : ∀ a, m.read a = m'.read a) : m = m' := by
  have hu : ∀ a, m.unlisted a = m'.unlisted a := fun a => by simp [Memory.unlisted, hs]
  have hc : m.cells = m'.cells := cells_ext h.1 h'.1 fun c => by
    rw [Memory.mem_cells_iff h, Memory.mem_cells_iff h', hr, hu]
  cases m; cases m'; simp_all

end Sys2Proof.Machine
end

