-- ==== Sys2Proof/Laws/State.lean ====
section
/-! SUPPORT. One lemma for each field under each named update of State, so that no later proof unfolds a record
update. -/

namespace Sys2Proof.Machine

/-! ## `State.latch` -/

section
variable (s : State) (w : Word)

@[simp] theorem State.latch_status : (s.latch w).status = { s.status with busy := true, done := false, err := .ok } := rfl
@[simp] theorem State.latch_inLen : (s.latch w).inLen = s.inLen := rfl
@[simp] theorem State.latch_argType : (s.latch w).argType = s.argType := rfl
@[simp] theorem State.latch_tReg : (s.latch w).tReg = s.tReg := rfl
@[simp] theorem State.latch_textErr : (s.latch w).textErr = s.textErr := rfl
@[simp] theorem State.latch_crcResult : (s.latch w).crcResult = s.crcResult := rfl
@[simp] theorem State.latch_chLength : (s.latch w).chLength = s.chLength := rfl
@[simp] theorem State.latch_chType : (s.latch w).chType = s.chType := rfl
@[simp] theorem State.latch_chCrc : (s.latch w).chCrc = s.chCrc := rfl
@[simp] theorem State.latch_outLen : (s.latch w).outLen = s.outLen := rfl
@[simp] theorem State.latch_info0 : (s.latch w).info0 = s.info0 := rfl
@[simp] theorem State.latch_info1 : (s.latch w).info1 = s.info1 := rfl
@[simp] theorem State.latch_curCmd : (s.latch w).curCmd = w := rfl
@[simp] theorem State.latch_ibuf : (s.latch w).ibuf = s.ibuf := rfl
@[simp] theorem State.latch_dbuf : (s.latch w).dbuf = s.dbuf := rfl
@[simp] theorem State.latch_obuf : (s.latch w).obuf = s.obuf := rfl
@[simp] theorem State.latch_pending : (s.latch w).pending = s.pending := rfl
@[simp] theorem State.latch_responses : (s.latch w).responses = s.responses := rfl
@[simp] theorem State.latch_hostFirst : (s.latch w).hostFirst = s.hostFirst := rfl
@[simp] theorem State.latch_draws : (s.latch w).draws = s.draws := rfl

end

/-! ## `State.accept` -/

section
variable (s : State) (w : Word)

@[simp] theorem State.accept_status : (s.accept w).status = { s.status with busy := true, done := false, err := .ok } := rfl
@[simp] theorem State.accept_inLen : (s.accept w).inLen = s.inLen := rfl
@[simp] theorem State.accept_argType : (s.accept w).argType = s.argType := rfl
@[simp] theorem State.accept_tReg : (s.accept w).tReg = s.tReg := rfl
@[simp] theorem State.accept_textErr : (s.accept w).textErr = s.textErr := rfl
@[simp] theorem State.accept_crcResult : (s.accept w).crcResult = s.crcResult := rfl
@[simp] theorem State.accept_chLength : (s.accept w).chLength = s.chLength := rfl
@[simp] theorem State.accept_chType : (s.accept w).chType = s.chType := rfl
@[simp] theorem State.accept_chCrc : (s.accept w).chCrc = s.chCrc := rfl
@[simp] theorem State.accept_outLen : (s.accept w).outLen = s.outLen := rfl
@[simp] theorem State.accept_info0 : (s.accept w).info0 = s.info0 := rfl
@[simp] theorem State.accept_info1 : (s.accept w).info1 = s.info1 := rfl
@[simp] theorem State.accept_curCmd : (s.accept w).curCmd = w := rfl
@[simp] theorem State.accept_ibuf : (s.accept w).ibuf = s.ibuf := rfl
@[simp] theorem State.accept_dbuf : (s.accept w).dbuf = s.dbuf := rfl
@[simp] theorem State.accept_obuf : (s.accept w).obuf = s.obuf := rfl
@[simp] theorem State.accept_pending : (s.accept w).pending = s.pending := rfl
@[simp] theorem State.accept_responses : (s.accept w).responses = s.responses := rfl
@[simp] theorem State.accept_hostFirst : (s.accept w).hostFirst = Config.freeDelay s.draws := rfl
@[simp] theorem State.accept_draws : (s.accept w).draws = s.draws + 1 := rfl

end

/-! ## `State.complete` -/

section
variable (s : State) (code : StatusCode) (i0 i1 : Word)

@[simp] theorem State.complete_status : (s.complete code i0 i1).status = { s.status with busy := false, done := true, err := code } := rfl
@[simp] theorem State.complete_inLen : (s.complete code i0 i1).inLen = s.inLen := rfl
@[simp] theorem State.complete_argType : (s.complete code i0 i1).argType = s.argType := rfl
@[simp] theorem State.complete_tReg : (s.complete code i0 i1).tReg = s.tReg := rfl
@[simp] theorem State.complete_textErr : (s.complete code i0 i1).textErr = s.textErr := rfl
@[simp] theorem State.complete_crcResult : (s.complete code i0 i1).crcResult = s.crcResult := rfl
@[simp] theorem State.complete_chLength : (s.complete code i0 i1).chLength = s.chLength := rfl
@[simp] theorem State.complete_chType : (s.complete code i0 i1).chType = s.chType := rfl
@[simp] theorem State.complete_chCrc : (s.complete code i0 i1).chCrc = s.chCrc := rfl
@[simp] theorem State.complete_outLen : (s.complete code i0 i1).outLen = s.outLen := rfl
@[simp] theorem State.complete_info0 : (s.complete code i0 i1).info0 = i0 := rfl
@[simp] theorem State.complete_info1 : (s.complete code i0 i1).info1 = i1 := rfl
@[simp] theorem State.complete_curCmd : (s.complete code i0 i1).curCmd = s.curCmd := rfl
@[simp] theorem State.complete_ibuf : (s.complete code i0 i1).ibuf = s.ibuf := rfl
@[simp] theorem State.complete_dbuf : (s.complete code i0 i1).dbuf = s.dbuf := rfl
@[simp] theorem State.complete_obuf : (s.complete code i0 i1).obuf = s.obuf := rfl
@[simp] theorem State.complete_pending : (s.complete code i0 i1).pending = s.pending := rfl
@[simp] theorem State.complete_responses : (s.complete code i0 i1).responses = s.responses := rfl
@[simp] theorem State.complete_hostFirst : (s.complete code i0 i1).hostFirst = s.hostFirst := rfl
@[simp] theorem State.complete_draws : (s.complete code i0 i1).draws = s.draws := rfl

end

/-! ## `State.setChValid` -/

section
variable (s : State) (v : Bool)

@[simp] theorem State.setChValid_status : (s.setChValid v).status = { s.status with chValid := v } := rfl
@[simp] theorem State.setChValid_inLen : (s.setChValid v).inLen = s.inLen := rfl
@[simp] theorem State.setChValid_argType : (s.setChValid v).argType = s.argType := rfl
@[simp] theorem State.setChValid_tReg : (s.setChValid v).tReg = s.tReg := rfl
@[simp] theorem State.setChValid_textErr : (s.setChValid v).textErr = s.textErr := rfl
@[simp] theorem State.setChValid_crcResult : (s.setChValid v).crcResult = s.crcResult := rfl
@[simp] theorem State.setChValid_chLength : (s.setChValid v).chLength = s.chLength := rfl
@[simp] theorem State.setChValid_chType : (s.setChValid v).chType = s.chType := rfl
@[simp] theorem State.setChValid_chCrc : (s.setChValid v).chCrc = s.chCrc := rfl
@[simp] theorem State.setChValid_outLen : (s.setChValid v).outLen = s.outLen := rfl
@[simp] theorem State.setChValid_info0 : (s.setChValid v).info0 = s.info0 := rfl
@[simp] theorem State.setChValid_info1 : (s.setChValid v).info1 = s.info1 := rfl
@[simp] theorem State.setChValid_curCmd : (s.setChValid v).curCmd = s.curCmd := rfl
@[simp] theorem State.setChValid_ibuf : (s.setChValid v).ibuf = s.ibuf := rfl
@[simp] theorem State.setChValid_dbuf : (s.setChValid v).dbuf = s.dbuf := rfl
@[simp] theorem State.setChValid_obuf : (s.setChValid v).obuf = s.obuf := rfl
@[simp] theorem State.setChValid_pending : (s.setChValid v).pending = s.pending := rfl
@[simp] theorem State.setChValid_responses : (s.setChValid v).responses = s.responses := rfl
@[simp] theorem State.setChValid_hostFirst : (s.setChValid v).hostFirst = s.hostFirst := rfl
@[simp] theorem State.setChValid_draws : (s.setChValid v).draws = s.draws := rfl

end

/-! ## `State.setWerr` -/

section
variable (s : State) (v : Bool)

@[simp] theorem State.setWerr_status : (s.setWerr v).status = { s.status with werr := v } := rfl
@[simp] theorem State.setWerr_inLen : (s.setWerr v).inLen = s.inLen := rfl
@[simp] theorem State.setWerr_argType : (s.setWerr v).argType = s.argType := rfl
@[simp] theorem State.setWerr_tReg : (s.setWerr v).tReg = s.tReg := rfl
@[simp] theorem State.setWerr_textErr : (s.setWerr v).textErr = s.textErr := rfl
@[simp] theorem State.setWerr_crcResult : (s.setWerr v).crcResult = s.crcResult := rfl
@[simp] theorem State.setWerr_chLength : (s.setWerr v).chLength = s.chLength := rfl
@[simp] theorem State.setWerr_chType : (s.setWerr v).chType = s.chType := rfl
@[simp] theorem State.setWerr_chCrc : (s.setWerr v).chCrc = s.chCrc := rfl
@[simp] theorem State.setWerr_outLen : (s.setWerr v).outLen = s.outLen := rfl
@[simp] theorem State.setWerr_info0 : (s.setWerr v).info0 = s.info0 := rfl
@[simp] theorem State.setWerr_info1 : (s.setWerr v).info1 = s.info1 := rfl
@[simp] theorem State.setWerr_curCmd : (s.setWerr v).curCmd = s.curCmd := rfl
@[simp] theorem State.setWerr_ibuf : (s.setWerr v).ibuf = s.ibuf := rfl
@[simp] theorem State.setWerr_dbuf : (s.setWerr v).dbuf = s.dbuf := rfl
@[simp] theorem State.setWerr_obuf : (s.setWerr v).obuf = s.obuf := rfl
@[simp] theorem State.setWerr_pending : (s.setWerr v).pending = s.pending := rfl
@[simp] theorem State.setWerr_responses : (s.setWerr v).responses = s.responses := rfl
@[simp] theorem State.setWerr_hostFirst : (s.setWerr v).hostFirst = s.hostFirst := rfl
@[simp] theorem State.setWerr_draws : (s.setWerr v).draws = s.draws := rfl

end

/-! ## `State.setSlot` -/

section
variable (s : State) (len type crc : Word) (data : List Byte)

@[simp] theorem State.setSlot_status : (s.setSlot len type crc data).status = { s.status with chValid := true } := rfl
@[simp] theorem State.setSlot_inLen : (s.setSlot len type crc data).inLen = s.inLen := rfl
@[simp] theorem State.setSlot_argType : (s.setSlot len type crc data).argType = s.argType := rfl
@[simp] theorem State.setSlot_tReg : (s.setSlot len type crc data).tReg = s.tReg := rfl
@[simp] theorem State.setSlot_textErr : (s.setSlot len type crc data).textErr = s.textErr := rfl
@[simp] theorem State.setSlot_crcResult : (s.setSlot len type crc data).crcResult = s.crcResult := rfl
@[simp] theorem State.setSlot_chLength : (s.setSlot len type crc data).chLength = len := rfl
@[simp] theorem State.setSlot_chType : (s.setSlot len type crc data).chType = type := rfl
@[simp] theorem State.setSlot_chCrc : (s.setSlot len type crc data).chCrc = crc := rfl
@[simp] theorem State.setSlot_outLen : (s.setSlot len type crc data).outLen = s.outLen := rfl
@[simp] theorem State.setSlot_info0 : (s.setSlot len type crc data).info0 = s.info0 := rfl
@[simp] theorem State.setSlot_info1 : (s.setSlot len type crc data).info1 = s.info1 := rfl
@[simp] theorem State.setSlot_curCmd : (s.setSlot len type crc data).curCmd = s.curCmd := rfl
@[simp] theorem State.setSlot_ibuf : (s.setSlot len type crc data).ibuf = s.ibuf := rfl
@[simp] theorem State.setSlot_dbuf : (s.setSlot len type crc data).dbuf = s.dbuf.writeSeq 0 data := rfl
@[simp] theorem State.setSlot_obuf : (s.setSlot len type crc data).obuf = s.obuf := rfl
@[simp] theorem State.setSlot_pending : (s.setSlot len type crc data).pending = s.pending := rfl
@[simp] theorem State.setSlot_responses : (s.setSlot len type crc data).responses = s.responses := rfl
@[simp] theorem State.setSlot_hostFirst : (s.setSlot len type crc data).hostFirst = s.hostFirst := rfl
@[simp] theorem State.setSlot_draws : (s.setSlot len type crc data).draws = s.draws := rfl

end

/-! ## `State.hostTurn` -/

section
variable (s : State) (rest : List HostOp)

@[simp] theorem State.hostTurn_status : (s.hostTurn rest).status = s.status := rfl
@[simp] theorem State.hostTurn_inLen : (s.hostTurn rest).inLen = s.inLen := rfl
@[simp] theorem State.hostTurn_argType : (s.hostTurn rest).argType = s.argType := rfl
@[simp] theorem State.hostTurn_tReg : (s.hostTurn rest).tReg = s.tReg := rfl
@[simp] theorem State.hostTurn_textErr : (s.hostTurn rest).textErr = s.textErr := rfl
@[simp] theorem State.hostTurn_crcResult : (s.hostTurn rest).crcResult = s.crcResult := rfl
@[simp] theorem State.hostTurn_chLength : (s.hostTurn rest).chLength = s.chLength := rfl
@[simp] theorem State.hostTurn_chType : (s.hostTurn rest).chType = s.chType := rfl
@[simp] theorem State.hostTurn_chCrc : (s.hostTurn rest).chCrc = s.chCrc := rfl
@[simp] theorem State.hostTurn_outLen : (s.hostTurn rest).outLen = s.outLen := rfl
@[simp] theorem State.hostTurn_info0 : (s.hostTurn rest).info0 = s.info0 := rfl
@[simp] theorem State.hostTurn_info1 : (s.hostTurn rest).info1 = s.info1 := rfl
@[simp] theorem State.hostTurn_curCmd : (s.hostTurn rest).curCmd = s.curCmd := rfl
@[simp] theorem State.hostTurn_ibuf : (s.hostTurn rest).ibuf = s.ibuf := rfl
@[simp] theorem State.hostTurn_dbuf : (s.hostTurn rest).dbuf = s.dbuf := rfl
@[simp] theorem State.hostTurn_obuf : (s.hostTurn rest).obuf = s.obuf := rfl
@[simp] theorem State.hostTurn_pending : (s.hostTurn rest).pending = rest := rfl
@[simp] theorem State.hostTurn_responses : (s.hostTurn rest).responses = s.responses := rfl
@[simp] theorem State.hostTurn_hostFirst : (s.hostTurn rest).hostFirst = s.hostFirst - 1 := rfl
@[simp] theorem State.hostTurn_draws : (s.hostTurn rest).draws = s.draws := rfl

end

/-! ## `State.pushResponse` -/

section
variable (s : State) (r : Response)

@[simp] theorem State.pushResponse_status : (s.pushResponse r).status = s.status := rfl
@[simp] theorem State.pushResponse_inLen : (s.pushResponse r).inLen = s.inLen := rfl
@[simp] theorem State.pushResponse_argType : (s.pushResponse r).argType = s.argType := rfl
@[simp] theorem State.pushResponse_tReg : (s.pushResponse r).tReg = s.tReg := rfl
@[simp] theorem State.pushResponse_textErr : (s.pushResponse r).textErr = s.textErr := rfl
@[simp] theorem State.pushResponse_crcResult : (s.pushResponse r).crcResult = s.crcResult := rfl
@[simp] theorem State.pushResponse_chLength : (s.pushResponse r).chLength = s.chLength := rfl
@[simp] theorem State.pushResponse_chType : (s.pushResponse r).chType = s.chType := rfl
@[simp] theorem State.pushResponse_chCrc : (s.pushResponse r).chCrc = s.chCrc := rfl
@[simp] theorem State.pushResponse_outLen : (s.pushResponse r).outLen = s.outLen := rfl
@[simp] theorem State.pushResponse_info0 : (s.pushResponse r).info0 = s.info0 := rfl
@[simp] theorem State.pushResponse_info1 : (s.pushResponse r).info1 = s.info1 := rfl
@[simp] theorem State.pushResponse_curCmd : (s.pushResponse r).curCmd = s.curCmd := rfl
@[simp] theorem State.pushResponse_ibuf : (s.pushResponse r).ibuf = s.ibuf := rfl
@[simp] theorem State.pushResponse_dbuf : (s.pushResponse r).dbuf = s.dbuf := rfl
@[simp] theorem State.pushResponse_obuf : (s.pushResponse r).obuf = s.obuf := rfl
@[simp] theorem State.pushResponse_pending : (s.pushResponse r).pending = s.pending := rfl
@[simp] theorem State.pushResponse_responses : (s.pushResponse r).responses = r :: s.responses := rfl
@[simp] theorem State.pushResponse_hostFirst : (s.pushResponse r).hostFirst = s.hostFirst := rfl
@[simp] theorem State.pushResponse_draws : (s.pushResponse r).draws = s.draws := rfl

end

/-! ## `State.illegalCmd`, `State.countDraw`, `State.resetEvent` and `State.withFetchWord` -/

@[simp] theorem State.illegalCmd_eq (s : State) : s.illegalCmd = s.complete .illegalCmd s.curCmd 0 := rfl

section
variable (s : State)

@[simp] theorem State.countDraw_status : s.countDraw.status = s.status := by unfold State.countDraw; split <;> rfl
@[simp] theorem State.countDraw_inLen : s.countDraw.inLen = s.inLen := by unfold State.countDraw; split <;> rfl
@[simp] theorem State.countDraw_argType : s.countDraw.argType = s.argType := by unfold State.countDraw; split <;> rfl
@[simp] theorem State.countDraw_tReg : s.countDraw.tReg = s.tReg := by unfold State.countDraw; split <;> rfl
@[simp] theorem State.countDraw_textErr : s.countDraw.textErr = s.textErr := by unfold State.countDraw; split <;> rfl
@[simp] theorem State.countDraw_crcResult : s.countDraw.crcResult = s.crcResult := by unfold State.countDraw; split <;> rfl
@[simp] theorem State.countDraw_chLength : s.countDraw.chLength = s.chLength := by unfold State.countDraw; split <;> rfl
@[simp] theorem State.countDraw_chType : s.countDraw.chType = s.chType := by unfold State.countDraw; split <;> rfl
@[simp] theorem State.countDraw_chCrc : s.countDraw.chCrc = s.chCrc := by unfold State.countDraw; split <;> rfl
@[simp] theorem State.countDraw_outLen : s.countDraw.outLen = s.outLen := by unfold State.countDraw; split <;> rfl
@[simp] theorem State.countDraw_info0 : s.countDraw.info0 = s.info0 := by unfold State.countDraw; split <;> rfl
@[simp] theorem State.countDraw_info1 : s.countDraw.info1 = s.info1 := by unfold State.countDraw; split <;> rfl
@[simp] theorem State.countDraw_curCmd : s.countDraw.curCmd = s.curCmd := by unfold State.countDraw; split <;> rfl
@[simp] theorem State.countDraw_ibuf : s.countDraw.ibuf = s.ibuf := by unfold State.countDraw; split <;> rfl
@[simp] theorem State.countDraw_dbuf : s.countDraw.dbuf = s.dbuf := by unfold State.countDraw; split <;> rfl
@[simp] theorem State.countDraw_obuf : s.countDraw.obuf = s.obuf := by unfold State.countDraw; split <;> rfl
@[simp] theorem State.countDraw_pending : s.countDraw.pending = s.pending := by unfold State.countDraw; split <;> rfl
@[simp] theorem State.countDraw_responses : s.countDraw.responses = s.responses := by unfold State.countDraw; split <;> rfl
@[simp] theorem State.countDraw_hostFirst : s.countDraw.hostFirst = s.hostFirst := by unfold State.countDraw; split <;> rfl
@[simp] theorem State.countDraw_draws : s.countDraw.draws = if s.status.busy then s.draws + 1 else s.draws := by
  unfold State.countDraw; split <;> rfl

@[simp] theorem State.resetEvent_status : s.resetEvent.status = State.reset.status := rfl
@[simp] theorem State.resetEvent_inLen : s.resetEvent.inLen = 0 := rfl
@[simp] theorem State.resetEvent_argType : s.resetEvent.argType = 0 := rfl
@[simp] theorem State.resetEvent_tReg : s.resetEvent.tReg = 0 := rfl
@[simp] theorem State.resetEvent_textErr : s.resetEvent.textErr = 0 := rfl
@[simp] theorem State.resetEvent_crcResult : s.resetEvent.crcResult = 0 := rfl
@[simp] theorem State.resetEvent_chLength : s.resetEvent.chLength = 0 := rfl
@[simp] theorem State.resetEvent_chType : s.resetEvent.chType = 0 := rfl
@[simp] theorem State.resetEvent_chCrc : s.resetEvent.chCrc = 0 := rfl
@[simp] theorem State.resetEvent_outLen : s.resetEvent.outLen = 0 := rfl
@[simp] theorem State.resetEvent_info0 : s.resetEvent.info0 = 0 := rfl
@[simp] theorem State.resetEvent_info1 : s.resetEvent.info1 = 0 := rfl
@[simp] theorem State.resetEvent_curCmd : s.resetEvent.curCmd = 0 := rfl
@[simp] theorem State.resetEvent_ibuf : s.resetEvent.ibuf = { seed := s.draws, cells := [] } := rfl
@[simp] theorem State.resetEvent_dbuf : s.resetEvent.dbuf = { seed := s.draws + 1, cells := [] } := rfl
@[simp] theorem State.resetEvent_obuf : s.resetEvent.obuf = { seed := s.draws + 2, cells := [] } := rfl
@[simp] theorem State.resetEvent_pending : s.resetEvent.pending = s.pending := rfl
@[simp] theorem State.resetEvent_responses : s.resetEvent.responses = s.responses := rfl
@[simp] theorem State.resetEvent_hostFirst : s.resetEvent.hostFirst = 0 := rfl
@[simp] theorem State.resetEvent_draws : s.resetEvent.draws = s.draws + 3 := rfl

end

section
variable (s : State) (nbits w : Nat)

@[simp] theorem State.withFetchWord_status : (s.withFetchWord nbits w).status = { s.status with busy := true, done := false, err := .ok } := rfl
@[simp] theorem State.withFetchWord_inLen : (s.withFetchWord nbits w).inLen = s.inLen := rfl
@[simp] theorem State.withFetchWord_argType : (s.withFetchWord nbits w).argType = s.argType := rfl
@[simp] theorem State.withFetchWord_tReg : (s.withFetchWord nbits w).tReg = s.tReg := rfl
@[simp] theorem State.withFetchWord_textErr : (s.withFetchWord nbits w).textErr = s.textErr := rfl
@[simp] theorem State.withFetchWord_crcResult : (s.withFetchWord nbits w).crcResult = s.crcResult := rfl
@[simp] theorem State.withFetchWord_chLength : (s.withFetchWord nbits w).chLength = s.chLength := rfl
@[simp] theorem State.withFetchWord_chType : (s.withFetchWord nbits w).chType = s.chType := rfl
@[simp] theorem State.withFetchWord_chCrc : (s.withFetchWord nbits w).chCrc = s.chCrc := rfl
@[simp] theorem State.withFetchWord_outLen : (s.withFetchWord nbits w).outLen = s.outLen := rfl
@[simp] theorem State.withFetchWord_info0 : (s.withFetchWord nbits w).info0 = s.info0 := rfl
@[simp] theorem State.withFetchWord_info1 : (s.withFetchWord nbits w).info1 = s.info1 := rfl
@[simp] theorem State.withFetchWord_curCmd : (s.withFetchWord nbits w).curCmd = BitVec.ofNat 32 (w % 2 ^ nbits) := rfl
@[simp] theorem State.withFetchWord_ibuf : (s.withFetchWord nbits w).ibuf = s.ibuf := rfl
@[simp] theorem State.withFetchWord_dbuf : (s.withFetchWord nbits w).dbuf = s.dbuf := rfl
@[simp] theorem State.withFetchWord_obuf : (s.withFetchWord nbits w).obuf = s.obuf := rfl
@[simp] theorem State.withFetchWord_pending : (s.withFetchWord nbits w).pending = s.pending := rfl
@[simp] theorem State.withFetchWord_responses : (s.withFetchWord nbits w).responses = s.responses := rfl
@[simp] theorem State.withFetchWord_hostFirst : (s.withFetchWord nbits w).hostFirst = 0 := rfl
@[simp] theorem State.withFetchWord_draws : (s.withFetchWord nbits w).draws = s.draws := rfl

end

end Sys2Proof.Machine
end

