-- ==== Sys2Proof/Laws/Operands.lean ====
section
/-! SUPPORT. The laws of the operand forms: the big-endian packing is a bijection, and the implicit operand
IBUF[0..IN_LEN). -/

namespace Sys2Proof.Machine

/-! ## Packing -/

theorem toNat_append8 {n : Nat} (x : BitVec n) (y : Byte) : (x ++ y).toNat = x.toNat * 256 + y.toNat := by
  rw [BitVec.toNat_append, ← Nat.shiftLeft_add_eq_or_of_lt y.isLt, Nat.shiftLeft_eq]

/-- `be32` as a number (R13). -/
theorem toNat_be32 (a b c d : Byte) :
    (be32 [a, b, c, d]).toNat = a.toNat * 2 ^ 24 + b.toNat * 2 ^ 16 + c.toNat * 2 ^ 8 + d.toNat := by
  have e : (be32 [a, b, c, d]).toNat = ((a ++ b ++ c ++ d : BitVec (8 + 8 + 8 + 8))).toNat := rfl
  rw [e, toNat_append8, toNat_append8, toNat_append8]
  omega

@[simp] theorem length_bytes32 (v : Word) : (bytes32 v).length = 4 := rfl

theorem be32_bytes32 (v : Word) : be32 (bytes32 v) = v := by
  apply BitVec.eq_of_toNat_eq
  rw [bytes32, toNat_be32]
  simp only [BitVec.extractLsb'_toNat, Nat.shiftRight_eq_div_pow]
  have := v.isLt
  omega

theorem bytes32_be32 (a b c d : Byte) : bytes32 (be32 [a, b, c, d]) = [a, b, c, d] := by
  have h := toNat_be32 a b c d
  have ha := a.isLt; have hb := b.isLt; have hc := c.isLt; have hd := d.isLt
  have e : ∀ (x : Byte) (k : Nat), (be32 [a, b, c, d]).toNat / 2 ^ k % 2 ^ 8 = x.toNat →
      (be32 [a, b, c, d]).extractLsb' k 8 = x := fun x k hx => by
    apply BitVec.eq_of_toNat_eq
    rw [BitVec.extractLsb'_toNat, Nat.shiftRight_eq_div_pow, hx]
  rw [bytes32, e a 24 (by omega), e b 16 (by omega), e c 8 (by omega), e d 0 (by omega)]

theorem exists_of_length_four {s : List Byte} (h : s.length = 4) : ∃ a b c d, s = [a, b, c, d] := by
  match s, h with
  | [a, b, c, d], _ => exact ⟨a, b, c, d, rfl⟩

theorem bytes32_be32_of_length {s : List Byte} (h : s.length = 4) : bytes32 (be32 s) = s := by
  obtain ⟨a, b, c, d, rfl⟩ := exists_of_length_four h
  exact bytes32_be32 a b c d

theorem be32_injective {s t : List Byte} (hs : s.length = 4) (ht : t.length = 4) (h : be32 s = be32 t) : s = t := by
  rw [← bytes32_be32_of_length hs, h, bytes32_be32_of_length ht]

/-- Four bytes of a buffer, packed. -/
theorem toNat_be32_slice (m : Memory) (a : Nat) : (be32 (m.slice a 4)).toNat = m.word32 a :=
  toNat_be32 _ _ _ _

theorem be32_slice (m : Memory) (a : Nat) : be32 (m.slice a 4) = BitVec.ofNat 32 (m.word32 a) := by
  rw [← toNat_be32_slice, BitVec.ofNat_toNat, BitVec.setWidth_eq]

theorem Memory.word32_lt (m : Memory) (a : Nat) : m.word32 a < 2 ^ 32 := by
  rw [← toNat_be32_slice]; exact (be32 _).isLt

/-- A buffer whose four bytes are those of a value reads as that value. -/
theorem Memory.word32_of_slice {m : Memory} {a : Nat} {v : Word} (h : m.slice a 4 = bytes32 v) :
    m.word32 a = v.toNat := by
  rw [← toNat_be32_slice, h, be32_bytes32]

theorem Memory.word32_congr {m m' : Memory} {a : Nat} (h : ∀ i, i < 4 → m'.read (a + i) = m.read (a + i)) :
    m'.word32 a = m.word32 a := by
  rw [← toNat_be32_slice, ← toNat_be32_slice, Memory.slice_congr h]

/-! ## The parameters -/

theorem bufSize_ge : 12 ≤ Config.bufSize := Nat.le_add_left _ _

theorem bufSize_le : Config.bufSize ≤ 2 ^ 32 - 13 := by
  have := Nat.mod_lt (Config.sizeChoice + 52) (show 0 < 2 ^ 32 - 24 by norm_num)
  unfold Config.bufSize
  omega

/-! ## The input range -/

theorem State.input_of_le {s : State} (h : s.inLen.toNat ≤ Config.bufSize) :
    s.input = some (s.ibuf.slice 0 s.inLen.toNat) := by
  rw [State.input, if_neg (by omega)]

theorem State.input_of_gt {s : State} (h : Config.bufSize < s.inLen.toNat) : s.input = none := by
  rw [State.input, if_pos h]

/-- What the input operand can be. -/
theorem State.input_cases (s : State) :
    (Config.bufSize < s.inLen.toNat ∧ s.input = none) ∨
    (s.inLen.toNat ≤ Config.bufSize ∧ s.input = some (s.ibuf.slice 0 s.inLen.toNat)) := by
  rcases Nat.lt_or_ge Config.bufSize s.inLen.toNat with h | h
  · exact .inl ⟨h, State.input_of_gt h⟩
  · exact .inr ⟨h, State.input_of_le h⟩

/-- The input depends on IN_LEN and the bytes below it alone. -/
theorem State.input_congr {s t : State} (hn : t.inLen = s.inLen)
    (hr : ∀ i, i < s.inLen.toNat → t.ibuf.read i = s.ibuf.read i) : t.input = s.input := by
  unfold State.input
  rw [hn]
  split_ifs
  · rfl
  · rw [Memory.slice_congr (m := s.ibuf) (m' := t.ibuf) fun i hi => by simpa using hr i hi]

end Sys2Proof.Machine
end

