-- ==== Sys2Proof/Laws/Commands.lean ====
section
/-! SUPPORT. One lemma for each command that says once everything its completion can do; later proofs cite these instead
of unfolding a meaning. -/

namespace Sys2Proof.Machine

/-! ## Type-tag unit -/

theorem execTfraw_eq (s : State) :
    exec .tfraw s = .next (State.complete { s with tReg := s.argType } .ok 0 0) := rfl

theorem execTftext_range {s : State} (h : Config.bufSize < s.inLen.toNat) :
    exec .tftext s = .next (s.complete .inLenRange s.inLen 0) := by
  simp only [exec, execTftext, State.input_of_gt h]

theorem execTftext_ok {s : State} (h : s.inLen.toNat ≤ Config.bufSize)
    (hc : textCheck (s.ibuf.slice 0 s.inLen.toNat) = 0) :
    exec .tftext s = .next (State.complete
      { s with textErr := 0, tReg := be32 ((s.ibuf.slice 0 s.inLen.toNat).take 4) } .ok 0 0) := by
  simp only [exec, execTftext, State.input_of_le h, hc, if_true]
  rfl

theorem execTftext_bad {s : State} (h : s.inLen.toNat ≤ Config.bufSize)
    (hc : textCheck (s.ibuf.slice 0 s.inLen.toNat) ≠ 0) :
    exec .tftext s = .next (State.complete
      { s with textErr := (textCheck (s.ibuf.slice 0 s.inLen.toNat)).setWidth 32 } .validation
      ((textCheck (s.ibuf.slice 0 s.inLen.toNat)).setWidth 32) 0) := by
  simp only [exec, execTftext, State.input_of_le h, if_neg hc]

/-- Everything TFTEXT can do. -/
theorem execTftext_cases {s t : State} (h : exec .tftext s = .next t) :
    t = s.complete .inLenRange s.inLen 0 ∨
    (textCheck (s.ibuf.slice 0 s.inLen.toNat) = 0 ∧
      t = State.complete { s with textErr := 0, tReg := be32 ((s.ibuf.slice 0 s.inLen.toNat).take 4) } .ok 0 0) ∨
    (textCheck (s.ibuf.slice 0 s.inLen.toNat) ≠ 0 ∧
      t = State.complete { s with textErr := (textCheck (s.ibuf.slice 0 s.inLen.toNat)).setWidth 32 } .validation
        ((textCheck (s.ibuf.slice 0 s.inLen.toNat)).setWidth 32) 0) := by
  rcases s.input_cases with ⟨hn, -⟩ | ⟨hn, -⟩
  · rw [execTftext_range hn] at h
    exact .inl (Host.Outcome.next.inj h).symm
  · by_cases hc : textCheck (s.ibuf.slice 0 s.inLen.toNat) = 0
    · rw [execTftext_ok hn hc] at h
      exact .inr (.inl ⟨hc, (Host.Outcome.next.inj h).symm⟩)
    · rw [execTftext_bad hn hc] at h
      exact .inr (.inr ⟨hc, (Host.Outcome.next.inj h).symm⟩)

/-! ## CRC engine -/

theorem execCrc_range {s : State} (h : Config.bufSize < s.inLen.toNat) :
    exec .crc s = .next (s.complete .inLenRange s.inLen 0) := by
  simp only [exec, execCrc, State.input_of_gt h]

theorem execCrc_ok {s : State} (h : s.inLen.toNat ≤ Config.bufSize) :
    exec .crc s = .next (State.complete { s with crcResult := crc32 (s.ibuf.slice 0 s.inLen.toNat) } .ok 0 0) := by
  simp only [exec, execCrc, State.input_of_le h]

/-- Everything CRC can do. -/
theorem execCrc_cases {s t : State} (h : exec .crc s = .next t) :
    t = s.complete .inLenRange s.inLen 0 ∨
    t = State.complete { s with crcResult := crc32 (s.ibuf.slice 0 s.inLen.toNat) } .ok 0 0 := by
  rcases s.input_cases with ⟨hn, -⟩ | ⟨hn, -⟩
  · rw [execCrc_range hn] at h
    exact .inl (Host.Outcome.next.inj h).symm
  · rw [execCrc_ok hn] at h
    exact .inr (Host.Outcome.next.inj h).symm

/-! ## Frame unit -/

theorem execEncode_range {s : State} (h : Config.bufSize < s.inLen.toNat) :
    exec .encode s = .next ((s.setChValid false).complete .inLenRange s.inLen 0) := by
  simp only [exec, execEncode, State.input_of_gt h]

theorem execEncode_ok {s : State} (h : s.inLen.toNat ≤ Config.bufSize) :
    exec .encode s = .next ((s.setSlot s.inLen s.tReg
      (crc32 (bytes32 s.tReg ++ s.ibuf.slice 0 s.inLen.toNat)) (s.ibuf.slice 0 s.inLen.toNat)).complete .ok 0 0) := by
  simp only [exec, execEncode, State.input_of_le h]

/-- Everything ENCODE can do. -/
theorem execEncode_cases {s t : State} (h : exec .encode s = .next t) :
    t = (s.setChValid false).complete .inLenRange s.inLen 0 ∨
    (s.inLen.toNat ≤ Config.bufSize ∧
      t = (s.setSlot s.inLen s.tReg (crc32 (bytes32 s.tReg ++ s.ibuf.slice 0 s.inLen.toNat))
        (s.ibuf.slice 0 s.inLen.toNat)).complete .ok 0 0) := by
  rcases s.input_cases with ⟨hn, -⟩ | ⟨hn, -⟩
  · rw [execEncode_range hn] at h
    exact .inl (Host.Outcome.next.inj h).symm
  · rw [execEncode_ok hn] at h
    exact .inr ⟨hn, (Host.Outcome.next.inj h).symm⟩

/-- What `decodeFrame` needs to accept, and what it then gives. -/
theorem decodeFrame_frame {b : List Byte} {len : Word} {tag data : List Byte} {stored : Word}
    (h : decodeFrame b = .frame len tag data stored) :
    len = frameLen b ∧ tag = frameTag b ∧ data = frameData b len.toNat ∧ stored = frameStored b len.toNat ∧
    len.toNat ≤ 0x7FFFFFFF ∧ b.length = len.toNat + 12 ∧ stored = crc32 (tag ++ data) := by
  unfold decodeFrame at h
  split_ifs at h with h1 h2 h3 h4 h5 h6
  injection h with e1 e2 e3 e4
  subst e1 e2 e3 e4
  exact ⟨rfl, rfl, rfl, rfl, by omega, by omega, not_not.1 h6⟩

/-- A frame in the form of R164 is accepted. -/
theorem decodeFrame_of_form {b : List Byte} (h1 : (frameLen b).toNat ≤ 0x7FFFFFFF)
    (h2 : b.length = (frameLen b).toNat + 12)
    (h3 : frameStored b (frameLen b).toNat = crc32 (frameTag b ++ frameData b (frameLen b).toNat)) :
    decodeFrame b = .frame (frameLen b) (frameTag b) (frameData b (frameLen b).toNat)
      (frameStored b (frameLen b).toNat) := by
  unfold decodeFrame
  rw [if_neg (by omega), if_neg (by omega), if_neg (by omega), if_neg (by omega), if_neg (by omega),
    if_neg (not_not.2 h3)]

/-- A parse that fails never reports OK. -/
theorem decodeFrame_bad_ne_ok {b : List Byte} {code : StatusCode} {i0 i1 : Word}
    (h : decodeFrame b = .bad code i0 i1) : code ≠ .ok := by
  unfold decodeFrame at h
  split_ifs at h <;> (injection h with e1 _ _; subst e1; decide)

theorem length_frameTag {b : List Byte} (h : 8 ≤ b.length) : (frameTag b).length = 4 := by
  simp only [frameTag, List.length_take, List.length_drop]; omega

theorem length_frameData {b : List Byte} {n : Nat} (h : n + 8 ≤ b.length) : (frameData b n).length = n := by
  simp only [frameData, List.length_take, List.length_drop]; omega

/-! ### The fields of a frame in a buffer -/

theorem frameLen_slice (m : Memory) {n : Nat} (h : 4 ≤ n) : frameLen (m.slice 0 n) = be32 (m.slice 0 4) := by
  rw [frameLen, Memory.take_slice _ h]

theorem toNat_frameLen_slice (m : Memory) {n : Nat} (h : 4 ≤ n) : (frameLen (m.slice 0 n)).toNat = m.word32 0 := by
  rw [frameLen_slice m h, toNat_be32_slice]

theorem frameTag_slice (m : Memory) {n : Nat} (h : 8 ≤ n) : frameTag (m.slice 0 n) = m.slice 4 4 := by
  rw [frameTag, Memory.drop_slice, Memory.take_slice _ (by omega)]

theorem frameData_slice (m : Memory) {n l : Nat} (h : 8 + l ≤ n) : frameData (m.slice 0 n) l = m.slice 8 l := by
  rw [frameData, Memory.drop_slice, Memory.take_slice _ (by omega)]

theorem frameStored_slice (m : Memory) {n l : Nat} (h : 12 + l ≤ n) :
    frameStored (m.slice 0 n) l = be32 (m.slice (8 + l) 4) := by
  rw [frameStored, Memory.drop_slice, Memory.take_slice _ (by omega), Nat.zero_add]

theorem execDecode_range {s : State} (h : Config.bufSize < s.inLen.toNat) :
    exec .decode s = .next ((s.setChValid false).complete .inLenRange s.inLen 0) := by
  simp only [exec, execDecode, State.input_of_gt h]

theorem execDecode_ok {s : State} {len : Word} {tag data : List Byte} {stored : Word}
    (h : s.inLen.toNat ≤ Config.bufSize)
    (hd : decodeFrame (s.ibuf.slice 0 s.inLen.toNat) = .frame len tag data stored) :
    exec .decode s = .next ((s.setSlot len (be32 tag) stored data).complete .ok 0 0) := by
  simp only [exec, execDecode, State.input_of_le h, hd]

theorem execDecode_bad {s : State} {code : StatusCode} {i0 i1 : Word} (h : s.inLen.toNat ≤ Config.bufSize)
    (hd : decodeFrame (s.ibuf.slice 0 s.inLen.toNat) = .bad code i0 i1) :
    exec .decode s = .next ((s.setChValid false).complete code i0 i1) := by
  simp only [exec, execDecode, State.input_of_le h, hd]

/-- Everything DECODE can do. -/
theorem execDecode_cases {s t : State} (h : exec .decode s = .next t) :
    (∃ code i0 i1, code ≠ .ok ∧ t = (s.setChValid false).complete code i0 i1) ∨
    (∃ len tag data stored, s.inLen.toNat ≤ Config.bufSize ∧
      decodeFrame (s.ibuf.slice 0 s.inLen.toNat) = .frame len tag data stored ∧
      t = (s.setSlot len (be32 tag) stored data).complete .ok 0 0) := by
  rcases s.input_cases with ⟨hn, -⟩ | ⟨hn, -⟩
  · rw [execDecode_range hn] at h
    exact .inl ⟨.inLenRange, s.inLen, 0, by decide, (Host.Outcome.next.inj h).symm⟩
  · cases hd : decodeFrame (s.ibuf.slice 0 s.inLen.toNat) with
    | frame len tag data stored =>
      rw [execDecode_ok hn hd] at h
      exact .inr ⟨len, tag, data, stored, hn, rfl, (Host.Outcome.next.inj h).symm⟩
    | bad code i0 i1 =>
      rw [execDecode_bad hn hd] at h
      exact .inl ⟨code, i0, i1, decodeFrame_bad_ne_ok hd, (Host.Outcome.next.inj h).symm⟩

@[simp] theorem length_frameOf (len type : Word) (data : List Byte) (crc : Word) :
    (frameOf len type data crc).length = data.length + 12 := by
  simp only [frameOf, List.length_append, length_bytes32]; omega

theorem State.length_slotFrame (s : State) : s.slotFrame.length = s.chLength.toNat + 12 := by
  rw [State.slotFrame, length_frameOf, Memory.length_slice]

theorem execSerialize_noChunk {s : State} (h : s.status.chValid = false) :
    exec .serialize s = .next (s.complete .noChunk 0 0) := by
  simp only [exec, execSerialize, if_pos h]

theorem execSerialize_ok {s : State} (h : s.status.chValid = true) (hl : s.chLength.toNat ≤ Config.bufSize) :
    exec .serialize s = .next (State.complete
      { s with obuf := s.obuf.writeSeq 0 s.slotFrame, outLen := s.chLength + 12 } .ok 0 0) := by
  simp only [exec, execSerialize, h, Bool.true_eq_false, if_false, State.engineRange, if_pos hl]

/-- Everything SERIALIZE can do. -/
theorem execSerialize_cases {s t : State} (h : exec .serialize s = .next t) :
    (s.status.chValid = false ∧ t = s.complete .noChunk 0 0) ∨
    (s.status.chValid = true ∧ s.chLength.toNat ≤ Config.bufSize ∧
      t = State.complete { s with obuf := s.obuf.writeSeq 0 s.slotFrame, outLen := s.chLength + 12 } .ok 0 0) := by
  cases hv : s.status.chValid with
  | false =>
    rw [execSerialize_noChunk hv] at h
    exact .inl ⟨rfl, (Host.Outcome.next.inj h).symm⟩
  | true =>
    by_cases hl : s.chLength.toNat ≤ Config.bufSize
    · rw [execSerialize_ok hv hl] at h
      exact .inr ⟨rfl, hl, (Host.Outcome.next.inj h).symm⟩
    · simp only [exec, execSerialize, hv, Bool.true_eq_false, if_false, State.engineRange, if_neg hl] at h
      cases h

/-! ## Every command -/

/-- The fault of log 9 is the only stop of any command, and SERIALIZE's alone. -/
theorem exec_stops_only {i : Instr} {s : State} (h : ∀ t, exec i s ≠ .next t) :
    i = .serialize ∧ s.status.chValid = true ∧ Config.bufSize < s.chLength.toNat := by
  have hd : ∀ (j : Instr), j ≠ .serialize → ∃ t, exec j s = .next t := by
    intro j hj
    rcases s.input_cases with ⟨hn, -⟩ | ⟨hn, -⟩ <;> cases j
    · exact ⟨_, execTfraw_eq s⟩
    · exact ⟨_, execTftext_range hn⟩
    · exact ⟨_, execEncode_range hn⟩
    · exact ⟨_, execDecode_range hn⟩
    · exact absurd rfl hj
    · exact ⟨_, execCrc_range hn⟩
    · exact ⟨_, execTfraw_eq s⟩
    · by_cases hc : textCheck (s.ibuf.slice 0 s.inLen.toNat) = 0
      · exact ⟨_, execTftext_ok hn hc⟩
      · exact ⟨_, execTftext_bad hn hc⟩
    · exact ⟨_, execEncode_ok hn⟩
    · cases hf : decodeFrame (s.ibuf.slice 0 s.inLen.toNat) with
      | frame len tag data stored => exact ⟨_, execDecode_ok hn hf⟩
      | bad code i0 i1 => exact ⟨_, execDecode_bad hn hf⟩
    · exact absurd rfl hj
    · exact ⟨_, execCrc_ok hn⟩
  by_cases hi : i = .serialize
  · subst hi
    cases hv : s.status.chValid with
    | false => exact absurd (execSerialize_noChunk hv) (h _)
    | true =>
      refine ⟨rfl, rfl, Nat.lt_of_not_le fun hl => h _ (execSerialize_ok hv hl)⟩
  · obtain ⟨t, ht⟩ := hd i hi
    exact absurd ht (h t)

end Sys2Proof.Machine
end

