-- ==== Sys2Proof/Laws/Crc.lean ====
section
/-! SUPPORT. The checksum's shift step is linear, and the loop runs over a concatenation in two parts. -/

namespace Sys2Proof.Machine

theorem crcBit_xor (a b : Word) : crcBit (a ^^^ b) = crcBit a ^^^ crcBit b := by
  unfold crcBit
  rw [BitVec.getLsbD_xor, BitVec.ushiftRight_xor_distrib]
  cases a.getLsbD 0 <;> cases b.getLsbD 0 <;>
    simp only [Bool.not_true, Bool.false_eq_true, if_true, if_false, Bool.xor_false, Bool.xor_true, Bool.not_false]
  · ac_rfl
  · ac_rfl
  · rw [show ∀ x y z : Word, x ^^^ z ^^^ (y ^^^ z) = x ^^^ y ^^^ (z ^^^ z) from fun x y z => by ac_rfl, BitVec.xor_self,
      BitVec.xor_zero]

theorem crcBits8_xor (a b : Word) : crcBits8 (a ^^^ b) = crcBits8 a ^^^ crcBits8 b := by
  simp only [crcBits8, crcBit_xor]

/-- A step on an even value is the plain shift. -/
theorem crcBit_of_even {a : Word} (h : a.getLsbD 0 = false) : crcBit a = a >>> 1 := by
  rw [crcBit, h]; rfl

theorem crcFold_append (c : Word) (s t : List Byte) : crcFold c (s ++ t) = crcFold (crcFold c s) t := by
  induction s generalizing c with
  | nil => rfl
  | cons b s ih => exact ih _

theorem crc32_nil : crc32 [] = 0 := by decide

end Sys2Proof.Machine
end

