-- ==== Sys2Proof/Laws/Decode.lean ====
section
/-! SUPPORT. The two fields of a command word, and what the decoder answers. -/

namespace Sys2Proof

theorem toNat_rsvdField (w : Word) : (rsvdField w).toNat = w.toNat / 256 := by
  rw [rsvdField, BitVec.extractLsb'_toNat, Nat.shiftRight_eq_div_pow]
  have := w.isLt
  omega

theorem toNat_opcField (w : Word) : (opcField w).toNat = w.toNat % 256 := by
  rw [opcField, BitVec.extractLsb'_toNat, Nat.shiftRight_zero]

theorem toNat_word (c : Command) : c.word.toNat = c.rsvd.toNat * 256 + c.opc.toNat :=
  Machine.toNat_append8 c.rsvd c.opc

theorem rsvdField_word (c : Command) : rsvdField c.word = c.rsvd := by
  apply BitVec.eq_of_toNat_eq
  rw [toNat_rsvdField, toNat_word]
  have := c.opc.isLt
  omega

theorem opcField_word (c : Command) : opcField c.word = c.opc := by
  apply BitVec.eq_of_toNat_eq
  rw [toNat_opcField, toNat_word]
  have := c.opc.isLt
  omega

theorem toNat_encode (i : Instr) : (encode i).toNat = (opcodeOf i).toNat := by cases i <;> decide

/-- A word with RSVD = 0 and a command's OPC is that command's word. -/
theorem word_of_fields {w : Word} {i : Instr} (h1 : rsvdField w = 0) (h2 : opcField w = opcodeOf i) : w = encode i := by
  apply BitVec.eq_of_toNat_eq
  have e1 : w.toNat / 256 = 0 := by rw [← toNat_rsvdField, h1]; rfl
  have e2 : w.toNat % 256 = (opcodeOf i).toNat := by rw [← toNat_opcField, h2]
  rw [toNat_encode, ← e2]
  omega

/-- Everything the decoder can answer. -/
theorem decode_cases (w : Word) :
    (∃ i, decode w = .ok i ∧ rsvdField w = 0 ∧ opcField w = opcodeOf i) ∨ (∃ r, decode w = .error r) := by
  unfold decode
  by_cases h : rsvdField w = 0
  · rw [if_neg (not_not.2 h)]
    split_ifs with h1 h2 h3 h4 h5 h6
    · exact .inl ⟨.tfraw, rfl, h, h1⟩
    · exact .inl ⟨.tftext, rfl, h, h2⟩
    · exact .inl ⟨.encode, rfl, h, h3⟩
    · exact .inl ⟨.decode, rfl, h, h4⟩
    · exact .inl ⟨.serialize, rfl, h, h5⟩
    · exact .inl ⟨.crc, rfl, h, h6⟩
    · exact .inr ⟨_, rfl⟩
  · rw [if_pos h]
    exact .inr ⟨_, rfl⟩

end Sys2Proof
end

