-- ==== Sys2Proof/Laws/Step.lean ====
section
/-! SUPPORT. What one step can be: the engine's completion, or one host step. -/

namespace Sys2Proof.Machine

theorem step_engine {s : State} (h : s.engineTurn = true) : step s = s.completion := by
  rw [step, if_pos h]

theorem State.engineTurn_of_moves {s : State} (h : s.engineMoves) : s.engineTurn = true := by
  obtain ⟨h1, h2 | h2⟩ := h <;> simp [State.engineTurn, h1, h2]

theorem State.engineMoves_of_turn {s : State} (h : s.engineTurn = true) : s.engineMoves := by
  simpa [State.engineTurn, State.engineMoves] using h

theorem State.engineTurn_of_hostMoves {s : State} {op : HostOp} {rest : List HostOp} (h : s.hostMoves op rest) :
    s.engineTurn = false := by
  obtain ⟨h1, h2 | h2⟩ := h <;> simp [State.engineTurn, h1, h2]

theorem step_host {s : State} (h : s.engineTurn = false) : step s = .next s.hostStep := by
  rw [step, if_neg (by simp [h])]

theorem completion_of_decode {s : State} {i : Instr} (h : decode s.curCmd = .ok i) : s.completion = exec i s := by
  simp only [State.completion, h]

theorem completion_of_reject {s : State} {r : DecodeReject} (h : decode s.curCmd = .error r) :
    s.completion = .next (s.complete .illegalCmd s.curCmd 0) := by
  simp only [State.completion, h, State.illegalCmd_eq]

/-- Everything a step can do when it answers a next state. -/
theorem step_cases {s t : State} (h : step s = .next t) :
    (s.engineTurn = true ∧ ∃ i, decode s.curCmd = .ok i ∧ exec i s = .next t) ∨
    (s.engineTurn = true ∧ (∃ r, decode s.curCmd = .error r) ∧ t = s.complete .illegalCmd s.curCmd 0) ∨
    (s.engineTurn = false ∧ t = s.hostStep) := by
  cases he : s.engineTurn with
  | true =>
    rw [step_engine he] at h
    cases hd : decode s.curCmd with
    | ok i =>
      rw [completion_of_decode hd] at h
      exact .inl ⟨rfl, i, rfl, h⟩
    | error r =>
      rw [completion_of_reject hd] at h
      exact .inr (.inl ⟨rfl, ⟨r, rfl⟩, (Host.Outcome.next.inj h).symm⟩)
  | false =>
    rw [step_host he] at h
    exact .inr (.inr ⟨rfl, (Host.Outcome.next.inj h).symm⟩)

@[simp] theorem Access.legal_read (sp : Space) (off : Word) (w : Width) :
    (Access.read sp off w).legal = sp.legal w off.toNat := rfl

@[simp] theorem Access.legal_write (sp : Space) (off : Word) (w : Width) (v : Word) :
    (Access.write sp off w v).legal = sp.legal w off.toNat := rfl

@[simp] theorem Reg.ofOffset_offset (r : Reg) : Reg.ofOffset r.offset = some r := by cases r <;> decide

/-- A register answers exactly where R65 says that a 32-bit access of REG is legal. -/
theorem Reg.isSome_ofOffset (off : Word) : (Reg.ofOffset off).isSome = Space.reg.legal .w32 off.toNat := by
  unfold Reg.ofOffset
  split <;> simp_all [Space.legal]
  omega

/-- An offset that names a register is that register's. -/
theorem Reg.eq_offset {off : Word} {r : Reg} (h : Reg.ofOffset off = some r) : off = r.offset := by
  apply BitVec.eq_of_toNat_eq
  unfold Reg.ofOffset at h
  split at h <;> cases h <;> simp_all [Reg.offset]

/-- What a register write does: nothing, or a change of WERR, or an acceptance, or IN_LEN or ARG_TYPE. -/
theorem State.writeReg_cases (s : State) (v : Word) (r : Reg) :
    s.writeReg v r = s ∨
    (s.status.busy = true ∧ (r = .cmd ∨ r = .inLen ∨ r = .argType) ∧ s.writeReg v r = s.setWerr true) ∨
    (r = .status ∧ v.getLsbD 2 = true ∧ s.writeReg v r = s.setWerr false) ∨
    (s.status.busy = false ∧ r = .cmd ∧ s.writeReg v r = s.accept v) ∨
    (s.status.busy = false ∧ r = .inLen ∧ s.writeReg v r = { s with inLen := v }) ∨
    (s.status.busy = false ∧ r = .argType ∧ s.writeReg v r = { s with argType := v }) := by
  cases r <;> simp only [State.writeReg] <;> (try split_ifs with hb) <;> simp_all

/-- What an access does to the core, and which access does it. -/
theorem State.performAccess_cases (s : State) (a : Access) :
    s.performAccess a = s ∨
    s.performAccess a = s.countDraw ∨
    (∃ v r, a = .write .reg r.offset .w32 v ∧ s.performAccess a = s.writeReg v r) ∨
    (∃ off v, a = .write .ibuf off .w8 v ∧ off.toNat < Config.bufSize ∧
      s.performAccess a = s.writeIbuf off.toNat (v.setWidth 8)) := by
  cases a with
  | read sp off w =>
    simp only [State.performAccess]
    split_ifs
    · exact .inl rfl
    · exact .inr (.inl rfl)
  | write sp off w v =>
    cases sp with
    | dbuf => exact .inl (by cases w <;> rfl)
    | obuf => exact .inl (by cases w <;> rfl)
    | ibuf =>
      cases w with
      | w32 => exact .inl rfl
      | w8 =>
        simp only [State.performAccess]
        split_ifs with h
        · exact .inr (.inr (.inr ⟨off, v, rfl, h, rfl⟩))
        · exact .inl rfl
    | reg =>
      cases w with
      | w8 => exact .inl rfl
      | w32 =>
        simp only [State.performAccess]
        cases h : Reg.ofOffset off with
        | none => exact .inl rfl
        | some r => exact .inr (.inr (.inl ⟨v, r, by rw [Reg.eq_offset h], rfl⟩))

theorem State.writeIbuf_busy {s : State} (h : s.status.busy = true) (a : Nat) (v : Byte) :
    s.writeIbuf a v = s.setWerr true := by
  rw [State.writeIbuf, if_pos h]

theorem State.writeIbuf_idle {s : State} (h : s.status.busy = false) (a : Nat) (v : Byte) :
    s.writeIbuf a v = { s with ibuf := s.ibuf.write a v } := by
  rw [State.writeIbuf, if_neg (by simp [h])]

theorem State.hostStep_nil {s : State} (h : s.pending = []) : s.hostStep = s := by
  simp only [State.hostStep, h]

theorem State.hostStep_access {s : State} {a : Access} {rest : List HostOp} (h : s.pending = .access a :: rest) :
    s.hostStep = ((s.hostTurn rest).performAccess a).pushResponse (s.respond a) := by
  simp only [State.hostStep, h]

theorem State.hostStep_poll {s : State} {rest : List HostOp} (h : s.pending = .poll :: rest) :
    s.hostStep = ((s.hostTurn (if s.pollAgain then .poll :: rest else rest)).countDraw).pushResponse
      (.okWord (s.readRegValue .status)) := by
  simp only [State.hostStep, h]

theorem State.hostStep_reset {s : State} {rest : List HostOp} (h : s.pending = .reset :: rest) :
    s.hostStep = (s.hostTurn rest).resetEvent := by
  simp only [State.hostStep, h]

end Sys2Proof.Machine
end

