-- ==== Sys2Proof/Laws/PerInstr.lean ====
section
/-! SUPPORT. Facts stated for each instruction: the word that encodes it has RSVD = 0 and its own OPC value. -/

namespace Sys2Proof.Laws.EncodedWord

/-- The fields of the word that encodes an instruction (30_encoding.md R90, R91). -/
def Statement (i : Instr) : Prop :=
  i.wellFormed = true ∧ rsvdField (encode i) = 0 ∧ opcField (encode i) = opcodeOf i

theorem tfraw : Statement .tfraw := by unfold Statement; decide

theorem tftext : Statement .tftext := by unfold Statement; decide

theorem encode : Statement .encode := by unfold Statement; decide

theorem decode : Statement .decode := by unfold Statement; decide

theorem serialize : Statement .serialize := by unfold Statement; decide

theorem crc : Statement .crc := by unfold Statement; decide

end Sys2Proof.Laws.EncodedWord
end

