-- ==== Sys2Proof/Tests/Slice0.lean ====
section
/-! SUPPORT. The model's own tests, and for each statement with hypotheses a witness that meets them together. Every
expected value is taken from the spec: spec/95_test_vectors.md by its vector names, or the rule that is named. -/

open Sys2Proof Sys2Proof.Machine

namespace Sys2Proof.Tests

/-! ## Small states -/

/-- The cells of a byte sequence from an offset up. -/
def cellsFrom (a : Nat) : List Byte → List Host.Cell
  | [] => []
  | b :: bs => (a, b) :: cellsFrom (a + 1) bs

/-- Reset, with a command word accepted, a byte sequence in IBUF and its length in IN_LEN; the engine moves next. -/
def running (w : Word) (bytes : List Byte) : State :=
  { State.reset with
    status := { State.reset.status with busy := true }
    curCmd := w
    inLen := BitVec.ofNat 32 bytes.length
    ibuf := { seed := 0, cells := cellsFrom 0 bytes } }

/-- The same with IN_LEN = 0xFFFFFFFF, above every legal BUF_SIZE. -/
def runningTooLong (w : Word) : State := { running w [] with inLen := 0xFFFFFFFF }

/-- Idle, the host about to make one step; WERR is set, so that clearing it shows. -/
def idleHost (op : HostOp) : State :=
  { State.reset with status := { State.reset.status with werr := true }, pending := [op] }

/-- A CRC in progress, the host about to make one step before the engine. -/
def busyHost (op : HostOp) : State := { running 0x00000006 [] with pending := [op], hostFirst := 1 }

/-- The slot holds the chunk "IEND" without data (V-ENC-1), and SERIALIZE is in progress. -/
def slotIend : State :=
  { running 0x00000005 [] with
    status := { State.reset.status with busy := true, chValid := true }
    chType := 0x49454E44
    chCrc := 0xAE426082 }

/-- F_IEND, the 12-byte frame of "IEND" (95_test_vectors.md). -/
def fIend : List Byte := [0x00, 0x00, 0x00, 0x00, 0x49, 0x45, 0x4E, 0x44, 0xAE, 0x42, 0x60, 0x82]

/-- The 42-byte message (95_test_vectors.md). -/
def msg : List Byte :=
  [0x54, 0x68, 0x69, 0x73, 0x20, 0x69, 0x73, 0x20, 0x77, 0x68, 0x65, 0x72, 0x65, 0x20] ++
  [0x79, 0x6F, 0x75, 0x72, 0x20, 0x73, 0x65, 0x63, 0x72, 0x65, 0x74, 0x20, 0x6D, 0x65] ++
  [0x73, 0x73, 0x61, 0x67, 0x65, 0x20, 0x77, 0x69, 0x6C, 0x6C, 0x20, 0x62, 0x65, 0x21]

/-- F54 with a given checksum field (95_test_vectors.md). -/
def f54 (crc : List Byte) : List Byte := [0x00, 0x00, 0x00, 0x2A, 0x52, 0x75, 0x53, 0x74] ++ msg ++ crc

/-- One field of the next state, if there is one. -/
def after {α : Type} (o : Host.Outcome State Fault Refusal) (f : State → α) : Option α :=
  match o with
  | .next t => some (f t)
  | .fault _ => none
  | .refused _ => none

theorem next_of_after {α : Type} {o : Host.Outcome State Fault Refusal} {f : State → α} {a : α}
    (h : after o f = some a) : ∃ t, o = .next t ∧ f t = a := by
  cases o with
  | next t => exact ⟨t, rfl, by simpa [after] using h⟩
  | fault r => cases h
  | refused r => cases h

theorem engineMoves_running (w : Word) (bytes : List Byte) : (running w bytes).engineMoves := ⟨rfl, .inl rfl⟩

theorem hostMoves_idle (op : HostOp) : (idleHost op).hostMoves op [] := ⟨rfl, .inl rfl⟩

theorem hostMoves_busy (op : HostOp) : (busyHost op).hostMoves op [] := ⟨rfl, .inr Nat.one_ne_zero⟩

/-! ## WellFormed: an ill-formed term for each check -/

/-- RSVD not 0 (30_encoding.md R91; V-CMD-4). -/
theorem test_wellFormed_rsvd : Command.wellFormed { opc := 0x01, rsvd := 0x000001 } = false := by decide

/-- OPC 0x00 (R94; V-CMD-1). -/
theorem test_wellFormed_opc_zero : Command.wellFormed { opc := 0x00, rsvd := 0 } = false := by decide

/-- OPC 0x07 (R94; V-CMD-2). -/
theorem test_wellFormed_opc_seven : Command.wellFormed { opc := 0x07, rsvd := 0 } = false := by decide

/-- The ends of the legal range. -/
theorem test_wellFormed_legal : Command.wellFormed { opc := 0x01, rsvd := 0 } = true ∧
    Command.wellFormed { opc := 0x06, rsvd := 0 } = true := by decide

/-- `RD8` does not name REG (R99). -/
theorem test_wellFormed_rd8 : AsmLine.wellFormed (.rd8 .reg 0) = false := by decide

/-- The text of LOADB holds codes 0x20 to 0x7E only (R100). -/
theorem test_wellFormed_text : AsmLine.wellFormed (.loadText [0x41, 0x1F]) = false ∧
    AsmLine.wellFormed (.loadText [0x7F]) = false ∧ AsmLine.wellFormed (.loadText [0x20, 0x7E]) = true := by decide

/-! ## Decoding: the words of 30_encoding.md R91, written out from R90 (RSVD in 31:8, OPC in 7:0) -/

theorem test_decode_tfraw : decode 0b00000000000000000000000000000001#32 = .ok .tfraw := by decide

theorem test_decode_tftext : decode 0b00000000000000000000000000000010#32 = .ok .tftext := by decide

theorem test_decode_encode : decode 0b00000000000000000000000000000011#32 = .ok .encode := by decide

theorem test_decode_decode : decode 0b00000000000000000000000000000100#32 = .ok .decode := by decide

theorem test_decode_serialize : decode 0b00000000000000000000000000000101#32 = .ok .serialize := by decide

theorem test_decode_crc : decode 0b00000000000000000000000000000110#32 = .ok .crc := by decide

/-- V-CMD-1 to V-CMD-5. -/
theorem test_decode_rejects :
    [0x00000000#32, 0x00000007#32, 0x000000FF#32, 0x00000101#32, 0x80000004#32].map decode =
      [.error .noSuchOpcode, .error .noSuchOpcode, .error .noSuchOpcode, .error .reservedNotZero,
        .error .reservedNotZero] := by decide

theorem test_decodeTableWord :
    [1, 2, 3, 4, 5, 6].map (decodeTableWord 32) =
      [some .tfraw, some .tftext, some .encode, some .decode, some .serialize, some .crc] := by decide

/-- A command word placed on the reset state runs as the first instruction. -/
theorem test_step_fetch_word :
    [1, 2, 3, 4, 5, 6].map (fun w => (after (step (State.reset.withFetchWord 32 w)) (fun _ => ())).isSome) =
      [true, true, true, true, true, true] := by decide

/-! ## Instructions: at most two tests for each -/

/-- The mask of "RuSt" (V-TFT-1), whatever the parameters. -/
theorem textCheck_rust : textCheck ((running 2 [0x52, 0x75, 0x53, 0x74]).ibuf.slice 0 4) = 0 := by
  unfold textCheck
  generalize Config.textLenUnit = u
  cases u <;> decide

/-- The mask of "Ru1t" is not 0 (V-TFT-5), whatever the parameters. -/
theorem textCheck_ru1t : textCheck ((running 2 [0x52, 0x75, 0x31, 0x74]).ibuf.slice 0 4) ≠ 0 := by
  unfold textCheck
  generalize Config.textLenUnit = u
  cases u <;> decide

/-- V-TFR-4, V-TFR-5: no character check, and IN_LEN is not read. -/
theorem test_tfraw :
    after (exec .tfraw { runningTooLong 1 with argType := 0x31323334 }) (fun t => (t.tReg, t.status.err)) =
      some (0x31323334, .ok) := by decide

/-- V-TFT-1: "RuSt" passes and becomes the tag, first byte in bits 31:24, whatever the parameters. -/
theorem test_tftext_accepts :
    ∃ t, exec .tftext (running 2 [0x52, 0x75, 0x53, 0x74]) = .next t ∧ t.tReg = 0x52755374 :=
  ⟨_, execTftext_ok (by decide) textCheck_rust, by decide⟩

/-- V-TFT-5, V-TFT-8, V-TFT-17 to V-TFT-19: the masks for (CHARS, 1), (CHARS, 0), (BYTES, 1), (BYTES, 0). -/
theorem test_tftext_masks :
    [[0x52, 0x75, 0x31, 0x74], [0x52, 0x75, 0x31], [0x52, 0xC3, 0xBC, 0x73, 0x74], [0x52, 0xC3, 0xBC],
      [0xC3, 0xA9, 0xC3, 0xA9]].map (fun t =>
        [textCheckWith .chars (fun _ => true) t, textCheckWith .chars (fun _ => false) t,
          textCheckWith .bytes (fun _ => true) t, textCheckWith .bytes (fun _ => false) t]) =
      [[0b100, 0b100, 0b100, 0b100], [0b110, 0b110, 0b110, 0b110], [0b101, 0b001, 0b111, 0b011],
        [0b111, 0b011, 0b111, 0b011], [0b111, 0b011, 0b101, 0b001]] := by decide

/-- V-PRP-1, 2, 8, 9, 12: the property bits under ASCII_CLASS and under BIT5. -/
theorem test_predicates :
    [0x52755374, 0x52757374, 0x00000000, 0x40315B60, 0xC0E080A0].map
        (fun r => (tagProps .asciiClass r, tagProps .bit5 r)) =
      [(0xD, 0xD), (0x9, 0x9), (0x0, 0x7), (0x0, 0xD), (0x0, 0xD)] := by decide

/-- V-ENC-1: the chunk "IEND" without data. -/
theorem test_encode :
    after (exec .encode { running 3 [] with tReg := 0x49454E44 })
        (fun t => (t.chLength, t.chType, t.chCrc, t.status.chValid, t.status.err)) =
      some (0, 0x49454E44, 0xAE426082, true, .ok) := by decide +kernel

/-- V-DEC-9: F_IEND is accepted into the slot. -/
theorem test_decode_frame :
    after (exec .decode (running 4 fIend)) (fun t => (t.chLength, t.chType, t.chCrc, t.status.chValid)) =
      some (0, 0x49454E44, 0xAE426082, true) := by decide +kernel

/-- V-DEC-17 and V-DEC-21: F54 as it is, and with its last byte 4d. -/
theorem test_decode_checksum :
    decodeFrame (f54 [0xAB, 0xD1, 0xD8, 0x4D]) = .bad .crcMismatch 0xABD1D84D 0xABD1D84E ∧
    decodeFrame (f54 [0xAB, 0xD1, 0xD8, 0x4E]) = .frame 0x2A [0x52, 0x75, 0x53, 0x74] msg 0xABD1D84E := by
  decide +kernel

/-- V-SER-2: the frame of the slot is F_IEND, and it is what OBUF then holds. -/
theorem test_serialize :
    ∃ t, exec .serialize slotIend = .next t ∧ t.outLen = 12 ∧ t.obuf.slice 0 12 = fIend := by
  refine ⟨_, execSerialize_ok rfl (by decide), by decide, ?_⟩
  have h : slotIend.slotFrame = fIend := by decide
  rw [h]
  exact Memory.slice_writeSeq slotIend.obuf 0 fIend

/-- V-SER-1: nothing in the slot. -/
theorem test_serialize_no_chunk :
    after (exec .serialize (running 5 [])) (fun t => (t.status.err, t.outLen)) = some (.noChunk, 0) := by decide

/-- V-CRC-2: the check value. -/
theorem test_crc :
    after (exec .crc (running 6 [0x31, 0x32, 0x33, 0x34, 0x35, 0x36, 0x37, 0x38, 0x39])) (·.crcResult) =
      some 0xCBF43926 := by decide +kernel

/-- V-CRC-1, 5, 13. -/
theorem test_crc32 :
    crc32 [] = 0x00000000 ∧ crc32 [0xFF] = 0xFF000000 ∧ crc32 ([0x52, 0x75, 0x53, 0x74] ++ msg) = 0xABD1D84E := by
  decide +kernel

/-- V-CMD-5. -/
theorem test_illegal_command :
    after (step (running 0x80000004 [])) (fun t => (t.status.err, t.info0, t.info1, t.status.chValid)) =
      some (.illegalCmd, 0x80000004, 0, false) := by decide

/-! ## The host port -/

/-- V-BUS-5 to V-BUS-8, V-BUS-11: a wrong width, a wrong alignment, no register. -/
theorem test_bus_errors :
    [.read .reg 0x00 .w8, .read .reg 0x02 .w32, .read .reg 0x3C .w32, .write .reg 0x40 .w32 1,
      .read .ibuf 0 .w32].map State.reset.respond = [.busErr, .busErr, .busErr, .busErr, .busErr] := by decide

/-- V-BUS-1: STATUS after reset. -/
theorem test_status_after_reset : State.reset.respond (.read .reg 0x08 .w32) = .okWord 0x00000010 := by decide

/-- V-BUS-19: a write of IN_LEN while BUSY is dropped and sets WERR. -/
theorem test_write_while_busy :
    after (step (busyHost (.access (.write .reg 0x0C .w32 7)))) (fun t => (t.inLen, t.status.werr, t.responses)) =
      some (0, true, [.ok]) := by decide

/-- V-BUS-22 and V-BUS-23: only a 1 in bit 2 of a write to STATUS clears WERR. -/
theorem test_clear_werr :
    [0x00000004, 0xFFFFFFFB].map (fun v =>
      after (step (idleHost (.access (.write .reg 0x08 .w32 v)))) (·.status.werr)) = [some false, some true] := by decide

/-- The accesses of `EXEC CRC` and of `LOADB "12"` (R100, and the encoding tables of 95_test_vectors.md L3). -/
theorem test_assemble :
    assemble [.loadText [0x31, 0x32], .exec .crc] =
      [.access (.write .ibuf 0 .w8 0x31), .access (.write .ibuf 1 .w8 0x32), .access (.write .reg 0x0C .w32 2),
        .access (.write .reg 0x04 .w32 6), .poll] := by decide

/-! ## Witnesses: encodings -/

theorem witness_DecodeInvertsEncode :
    Instr.crc.wellFormed = true ∧ decode 0x00000006#32 = .ok .crc := by decide

/-! ## Witnesses: the command lifecycle -/

/-- The completion of TFTEXT on "Ru1t". -/
theorem step_ru1t :
    ∃ t, step (running 2 [0x52, 0x75, 0x31, 0x74]) = .next t ∧ t.status.err = .validation ∧ t.textErr ≠ 0 := by
  have e : ∀ m : BitVec 3, m ≠ 0 → m.setWidth 32 ≠ 0#32 := by decide
  exact ⟨_, ((step_engine (s := running 2 [0x52, 0x75, 0x31, 0x74]) rfl).trans
    (completion_of_decode (i := .tftext) (by decide))).trans (execTftext_bad (by decide) textCheck_ru1t),
    rfl, e _ textCheck_ru1t⟩

theorem witness_StepRunsDecodedCommand :
    (running 0x00000006 []).engineMoves ∧ decode (running 0x00000006 []).curCmd = .ok .crc :=
  ⟨engineMoves_running _ _, by decide⟩

/-- One state for each clause; the last two are the ends of the illegal range. -/
theorem witness_CompletionDecodesCurCmd :
    (∀ w : Word, (running w []).engineMoves) ∧
    [0x00000001#32, 0x00000002#32, 0x00000003#32, 0x00000004#32, 0x00000005#32, 0x00000006#32].map
      (fun w => (running w []).curCmd.toNat) = [1, 2, 3, 4, 5, 6] ∧
    (running 0x00000000 []).curCmd.toNat = 0 ∧ 7 ≤ (running 0x00000007 []).curCmd.toNat ∧
    7 ≤ (running 0xFFFFFFFF []).curCmd.toNat :=
  ⟨fun w => engineMoves_running w [], by decide, by decide, by decide, by decide⟩

/-- One state for each way in which a word is illegal, at the ends of the ranges. -/
theorem witness_IllegalWordCompletesWithIllegalCmd :
    (∀ w : Word, (running w []).engineMoves ∧ (running w []).curCmd = w) ∧
    (0x00000101#32).extractLsb' 8 24 ≠ 0 ∧ (0x00000000#32).extractLsb' 0 8 = 0 ∧
    0x07 ≤ ((0x00000007#32).extractLsb' 0 8).toNat ∧ 0x07 ≤ ((0x000000FF#32).extractLsb' 0 8).toNat :=
  ⟨fun w => ⟨engineMoves_running w [], rfl⟩, by decide, by decide, by decide, by decide⟩

theorem witness_HostStartsCommand :
    (idleHost (.access (.write .reg 0x04 .w32 6))).status.busy = false ∧
    (idleHost (.access (.write .reg 0x04 .w32 6))).hostMoves (.access (.write .reg 0x04 .w32 6)) [] :=
  ⟨rfl, hostMoves_idle _⟩

/-! ## Witnesses: the type-tag unit -/

/-- "AZaz", the ends of the two letter ranges (V-TFT-4). -/
theorem witness_TftextAcceptsFourLetters :
    ∃ s : State, s.inLen.toNat = 4 ∧
      ∀ i, i < 4 → (0x41 ≤ (s.ibuf.read i).toNat ∧ (s.ibuf.read i).toNat ≤ 0x5A) ∨
        (0x61 ≤ (s.ibuf.read i).toNat ∧ (s.ibuf.read i).toNat ≤ 0x7A) :=
  ⟨running 2 [0x41, 0x5A, 0x61, 0x7A], by decide⟩

/-- "Ru1t" (V-TFT-5). -/
theorem witness_TftextRejectsAndReportsMask :
    ∃ s : State, s.inLen.toNat ≤ Config.bufSize ∧ textCheck (s.ibuf.slice 0 s.inLen.toNat) ≠ 0 :=
  ⟨running 2 [0x52, 0x75, 0x31, 0x74], by decide, textCheck_ru1t⟩

/-- Indexes at the ends of the two reserved ranges. -/
theorem witness_TypePropsShowsBothTags :
    ∀ i ∈ [4, 7, 12, 31], (4 ≤ i ∧ i ≤ 7) ∨ (12 ≤ i ∧ i ≤ 31) := by decide

theorem witness_PredicatesAgreeOnLetters :
    (∀ b ∈ bytes32 0x52755374, letter b = true) ∧
    ∃ s t : State, exec .tftext s = .next t ∧ t.status.err = .ok :=
  ⟨by decide, running 2 [0x52, 0x75, 0x53, 0x74], _, execTftext_ok (by decide) textCheck_rust, rfl⟩

/-! ## Witnesses: the status registers -/

/-- Indexes at the ends of the two reserved ranges. -/
theorem witness_StatusWordShowsItsFields :
    ∀ i ∈ [5, 7, 12, 31], (5 ≤ i ∧ i ≤ 7) ∨ (12 ≤ i ∧ i ≤ 31) := by decide

/-- A completion with each code: CRC, V-DEC-1, V-DEC-3, V-DEC-13, V-DEC-10, V-DEC-16, V-TFT-5, IN_LEN_RANGE at
0xFFFFFFFF, V-SER-1 and V-CMD-1. -/
theorem witness_CompletionReportsPayload :
    ∀ c : StatusCode, ∃ s t : State, s.engineMoves ∧ step s = .next t ∧ t.status.err = c := by
  intro c
  cases c with
  | ok =>
    obtain ⟨t, h⟩ := next_of_after (a := StatusCode.ok)
      (show after (step (running 6 [])) (·.status.err) = _ by decide)
    exact ⟨_, t, engineMoves_running _ _, h⟩
  | bufferTooShort =>
    obtain ⟨t, h⟩ := next_of_after (a := StatusCode.bufferTooShort)
      (show after (step (running 4 [])) (·.status.err) = _ by decide)
    exact ⟨_, t, engineMoves_running _ _, h⟩
  | lengthTooLarge =>
    obtain ⟨t, h⟩ := next_of_after (a := StatusCode.lengthTooLarge)
      (show after (step (running 4 [0x80, 0, 0, 0])) (·.status.err) = _ by decide)
    exact ⟨_, t, engineMoves_running _ _, h⟩
  | incorrectLength =>
    obtain ⟨t, h⟩ := next_of_after (a := StatusCode.incorrectLength)
      (show after (step (running 4 ([0x7F, 0xFF, 0xFF, 0xFF] ++ fIend.drop 4))) (·.status.err) = _ by decide +kernel)
    exact ⟨_, t, engineMoves_running _ _, h⟩
  | crcFieldSize =>
    obtain ⟨t, h⟩ := next_of_after (a := StatusCode.crcFieldSize)
      (show after (step (running 4 (fIend.take 11))) (·.status.err) = _ by decide +kernel)
    exact ⟨_, t, engineMoves_running _ _, h⟩
  | crcMismatch =>
    obtain ⟨t, h⟩ := next_of_after (a := StatusCode.crcMismatch)
      (show after (step (running 4 (fIend.take 8 ++ [0x82, 0x60, 0x42, 0xAE]))) (·.status.err) = _ by decide +kernel)
    exact ⟨_, t, engineMoves_running _ _, h⟩
  | validation =>
    obtain ⟨t, h, e, -⟩ := step_ru1t
    exact ⟨_, t, engineMoves_running _ _, h, e⟩
  | inLenRange =>
    have hn : Config.bufSize < (runningTooLong 6).inLen.toNat :=
      lt_of_le_of_lt bufSize_le (by decide)
    have hs := (step_engine (s := runningTooLong 6) rfl).trans (completion_of_decode (i := .crc) (by decide))
    exact ⟨runningTooLong 6, _, ⟨rfl, .inl rfl⟩, hs.trans (execCrc_range hn), rfl⟩
  | noChunk =>
    obtain ⟨t, h⟩ := next_of_after (a := StatusCode.noChunk)
      (show after (step (running 5 [])) (·.status.err) = _ by decide)
    exact ⟨_, t, engineMoves_running _ _, h⟩
  | illegalCmd =>
    obtain ⟨t, h⟩ := next_of_after (a := StatusCode.illegalCmd)
      (show after (step (running 0 [])) (·.status.err) = _ by decide)
    exact ⟨_, t, engineMoves_running _ _, h⟩

/-- For each of the four commands. -/
theorem witness_InputLongerThanBufferIsRefused :
    ∀ i ∈ [Instr.tftext, .encode, .decode, .crc], ∃ s : State, Config.bufSize < s.inLen.toNat ∧
      (i = .tftext ∨ i = .encode ∨ i = .decode ∨ i = .crc) := by
  intro i hi
  refine ⟨runningTooLong 0, lt_of_le_of_lt bufSize_le (by decide), ?_⟩
  revert i
  decide

/-! ## Witnesses: the frame unit -/

/-- IN_LEN = 12, which every legal BUF_SIZE admits, and IN_LEN = 0. -/
theorem witness_EncodeBuildsChunk :
    (running 3 fIend).inLen.toNat = 12 ∧ (running 3 fIend).inLen.toNat ≤ Config.bufSize ∧
    (running 3 []).inLen.toNat ≤ Config.bufSize := by decide

theorem witness_LongChunkFrameIsRejected : 0x7FFFFFFF < (0x80000000#32).toNat := by decide

/-- F_IEND (V-DEC-9). -/
theorem witness_DecodeAcceptsWellFormedFrame :
    ∃ s : State, s.inLen.toNat ≤ Config.bufSize ∧ s.ibuf.word32 0 ≤ 0x7FFFFFFF ∧
      s.inLen.toNat = s.ibuf.word32 0 + 12 ∧
      s.ibuf.word32 (8 + s.ibuf.word32 0) = (crc32 (s.ibuf.slice 4 (4 + s.ibuf.word32 0))).toNat :=
  ⟨running 4 fIend, by decide +kernel⟩

/-- Clause 1 at its upper end (V-DEC-2). -/
theorem witness_DecodeReportsFirstFailingStep_1 :
    ∃ s : State, s.inLen.toNat ≤ Config.bufSize ∧ s.inLen.toNat < 4 :=
  ⟨running 4 [0, 0, 0], by decide⟩

/-- Clause 2 at its lower end (V-DEC-3). -/
theorem witness_DecodeReportsFirstFailingStep_2 :
    ∃ s : State, s.inLen.toNat ≤ Config.bufSize ∧ 4 ≤ s.inLen.toNat ∧ 0x7FFFFFFF < s.ibuf.word32 0 :=
  ⟨running 4 [0x80, 0, 0, 0], by decide⟩

/-- Clause 3 at its lower and its upper end (V-DEC-6, V-DEC-7). -/
theorem witness_DecodeReportsFirstFailingStep_3 :
    ∀ b ∈ [[0, 0, 0, 0], [0, 0, 0, 0, 0x49, 0x45, 0x4E]],
      (running 4 b).inLen.toNat ≤ Config.bufSize ∧ 4 ≤ (running 4 b).inLen.toNat ∧
      (running 4 b).inLen.toNat < 8 ∧ (running 4 b).ibuf.word32 0 ≤ 0x7FFFFFFF := by decide

/-- Clause 4 at the largest length, and at the smallest that exceeds what is left (V-DEC-12, V-DEC-13). -/
theorem witness_DecodeReportsFirstFailingStep_4 :
    ∀ l ∈ [[0, 0, 0, 5], [0x7F, 0xFF, 0xFF, 0xFF]],
      (running 4 (l ++ fIend.drop 4)).inLen.toNat ≤ Config.bufSize ∧
      8 ≤ (running 4 (l ++ fIend.drop 4)).inLen.toNat ∧
      (running 4 (l ++ fIend.drop 4)).ibuf.word32 0 ≤ 0x7FFFFFFF ∧
      (running 4 (l ++ fIend.drop 4)).inLen.toNat < 8 + (running 4 (l ++ fIend.drop 4)).ibuf.word32 0 := by
  decide +kernel

/-- Clause 5: no checksum byte, one missing, and a declared length one too long (V-DEC-8, V-DEC-10, V-DEC-14). -/
theorem witness_DecodeReportsFirstFailingStep_5 :
    ∀ b ∈ [fIend.take 8, fIend.take 11, [0, 0, 0, 1] ++ fIend.drop 4],
      (running 4 b).inLen.toNat ≤ Config.bufSize ∧ (running 4 b).ibuf.word32 0 ≤ 0x7FFFFFFF ∧
      8 + (running 4 b).ibuf.word32 0 ≤ (running 4 b).inLen.toNat ∧
      (running 4 b).inLen.toNat ≠ 12 + (running 4 b).ibuf.word32 0 := by decide +kernel

/-- Clause 5 with five bytes after the data (V-DEC-11). It takes 13 bytes of IBUF, which every legal BUF_SIZE but the
least, 12, has. -/
theorem witness_DecodeReportsFirstFailingStep_5_long :
    13 ≤ Config.bufSize → ∃ s : State, s.inLen.toNat ≤ Config.bufSize ∧ s.ibuf.word32 0 ≤ 0x7FFFFFFF ∧
      8 + s.ibuf.word32 0 ≤ s.inLen.toNat ∧ s.inLen.toNat = 13 + s.ibuf.word32 0 :=
  fun h => ⟨running 4 (fIend ++ [0x00]), le_trans (by decide) h, by decide⟩

/-- Clause 6 (V-DEC-16). -/
theorem witness_DecodeReportsFirstFailingStep_6 :
    ∃ s : State, s.inLen.toNat ≤ Config.bufSize ∧ s.ibuf.word32 0 ≤ 0x7FFFFFFF ∧
      s.inLen.toNat = 12 + s.ibuf.word32 0 ∧
      s.ibuf.word32 (8 + s.ibuf.word32 0) ≠ (crc32 (s.ibuf.slice 4 (4 + s.ibuf.word32 0))).toNat :=
  ⟨running 4 (fIend.take 8 ++ [0x82, 0x60, 0x42, 0xAE]), by decide +kernel⟩

theorem witness_AcceptedFrameFillsSlot :
    ∃ s t : State, exec .decode s = .next t ∧ t.status.err = .ok :=
  ⟨running 4 fIend, next_of_after (f := (·.status.err)) (by decide +kernel)⟩

theorem witness_FailedDecodeKeepsSlot :
    ∃ s t : State, exec .decode s = .next t ∧ t.status.err ≠ .ok := by
  obtain ⟨t, h, e⟩ := next_of_after (a := StatusCode.bufferTooShort)
    (show after (exec .decode (running 4 [])) (·.status.err) = _ by decide)
  exact ⟨_, t, h, by rw [e]; decide⟩

/-- F_IEND followed by one byte (V-DEC-11). -/
theorem witness_TrailingBytesAreRejected :
    decodeFrame fIend = .frame 0 [0x49, 0x45, 0x4E, 0x44] [] 0xAE426082 ∧ [(0x00 : Byte)] ≠ [] ∧
    (fIend ++ [0x00]).length < 2 ^ 32 := by decide +kernel

/-- F_IEND, and F_IEND with bit 0 of its checksum flipped. -/
theorem witness_TamperedChecksumIsMismatch :
    ∃ s s' t : State, exec .decode s = .next t ∧ t.status.err = .ok ∧ s'.inLen = s.inLen ∧
      (∀ a, a < 8 + s.ibuf.word32 0 → s'.ibuf.read a = s.ibuf.read a) ∧
      s'.ibuf.word32 (8 + s.ibuf.word32 0) ≠ s.ibuf.word32 (8 + s.ibuf.word32 0) := by
  obtain ⟨t, h, e⟩ := next_of_after (a := StatusCode.ok)
    (show after (exec .decode (running 4 fIend)) (·.status.err) = _ by decide +kernel)
  exact ⟨_, running 4 (fIend.take 8 ++ [0xAE, 0x42, 0x60, 0x83]), t, h, e, by decide +kernel⟩

theorem witness_SerializeWritesFrame :
    slotIend.status.chValid = true ∧ slotIend.chLength.toNat ≤ Config.bufSize := by decide

theorem witness_SerializeWithoutChunk : (running 5 []).status.chValid = false := rfl

/-- Both sides of the equivalence: the longest length there is. -/
theorem witness_SerializeStopsOnlyOutsideBuffers :
    ∃ s : State, s.status.chValid = true ∧ Config.bufSize < s.chLength.toNat :=
  ⟨{ slotIend with chLength := 0xFFFFFFFF }, rfl, lt_of_le_of_lt bufSize_le (by decide)⟩

/-- The invariant holds of a state whose slot holds a chunk. -/
theorem slotIend_inv : slotIend.Inv where
  ibuf := Memory.sound_empty _ _
  dbuf := Memory.sound_empty _ _
  obuf := Memory.sound_empty _ _
  slot := fun _ => by decide +kernel
  busy := fun _ => ⟨rfl, rfl⟩
  textErr := by decide
  outLen := Nat.zero_le _

theorem witness_SerializeRepeats :
    slotIend.Inv ∧ ∃ t, exec .serialize slotIend = .next t ∧ t.status.err = .ok :=
  ⟨slotIend_inv, _, execSerialize_ok rfl (by decide), rfl⟩

theorem witness_SerializeInvertsDecode :
    ∃ s t u : State, exec .decode s = .next t ∧ t.status.err = .ok ∧ u.status.chValid = t.status.chValid ∧
      u.chLength = t.chLength ∧ u.chType = t.chType ∧ u.chCrc = t.chCrc ∧
      ∀ a, a < t.chLength.toNat → u.dbuf.read a = t.dbuf.read a := by
  obtain ⟨t, h, e⟩ := next_of_after (a := StatusCode.ok)
    (show after (exec .decode (running 4 fIend)) (·.status.err) = _ by decide +kernel)
  exact ⟨_, t, { t with inLen := 0, tReg := 0x41424344 }, h, e, rfl, rfl, rfl, rfl, fun a _ => rfl⟩

/-- The chunk "IEND" without data, encoded, written out, and its twelve bytes read back. -/
theorem witness_EncodeSerializeDecodeRoundTrip :
    ∃ s t u v : State, s.inLen.toNat ≤ 0x7FFFFFFF ∧ s.inLen.toNat + 12 ≤ Config.bufSize ∧
      exec .encode s = .next t ∧ exec .serialize t = .next u ∧ v.inLen.toNat = s.inLen.toNat + 12 ∧
      ∀ a, a < s.inLen.toNat + 12 → v.ibuf.read a = u.obuf.read a := by
  have h : (0 : Nat) ≤ Config.bufSize := Nat.zero_le _
  exact ⟨running 3 [], _, _, { running 4 fIend with ibuf := State.obuf _ }, by decide, bufSize_ge,
    execEncode_ok h, execSerialize_ok rfl h, by decide, fun a _ => rfl⟩

/-- Two states that differ in a register that is no operand. -/
theorem witness_EncodeDecodeDependOnOperandsAlone :
    ∃ s s' t : State, s ≠ s' ∧ s'.tReg = s.tReg ∧ s'.inLen = s.inLen ∧
      (∀ a, a < s.inLen.toNat → s'.ibuf.read a = s.ibuf.read a) ∧ exec .encode s = .next t ∧
      ∃ t', exec .decode s = .next t' := by
  obtain ⟨t, h, -⟩ := next_of_after (a := StatusCode.bufferTooShort)
    (show after (exec .decode (running 4 [])) (·.status.err) = _ by decide)
  exact ⟨running 4 [], { running 4 [] with argType := 1 }, _, by decide, rfl, rfl, fun a _ => rfl,
    execEncode_ok (Nat.zero_le _), t, h⟩

theorem witness_CrcChecksumsInput :
    (running 6 fIend).inLen.toNat ≤ Config.bufSize ∧ (running 6 []).inLen.toNat ≤ Config.bufSize := by decide

/-! ## Witnesses: the host port -/

/-- A refused access while idle and one while BUSY. -/
theorem witness_RefusedAccessChangesNothing :
    (idleHost (.access (.read .reg 0x3C .w32))).hostMoves (.access (.read .reg 0x3C .w32)) [] ∧
    (busyHost (.access (.read .reg 0x3C .w32))).hostMoves (.access (.read .reg 0x3C .w32)) [] ∧
    (Access.read .reg 0x3C .w32).legal = false :=
  ⟨hostMoves_idle _, hostMoves_busy _, by decide⟩

/-- Each clause, idle and BUSY; the first byte of DBUF and a byte of OBUF above the size of DBUF's least legal size. -/
theorem witness_ReadOnlyWritesAreIgnored :
    (idleHost (.access (.write .reg (Reg.offset .cap) .w32 5))).hostMoves
      (.access (.write .reg (Reg.offset .cap) .w32 5)) [] ∧
    (busyHost (.access (.write .reg (Reg.offset .info1) .w32 5))).hostMoves
      (.access (.write .reg (Reg.offset .info1) .w32 5)) [] ∧
    (busyHost (.access (.write .dbuf 0 .w8 5))).hostMoves (.access (.write .dbuf 0 .w8 5)) [] ∧
    (0 : Word).toNat < Space.dbuf.size ∧
    (idleHost (.access (.write .obuf 23 .w8 5))).hostMoves (.access (.write .obuf 23 .w8 5)) [] ∧
    (busyHost (.access (.write .obuf 23 .w8 5))).hostMoves (.access (.write .obuf 23 .w8 5)) [] ∧
    (23 : Word).toNat < Space.obuf.size :=
  ⟨hostMoves_idle _, hostMoves_busy _, hostMoves_busy _, Nat.lt_of_lt_of_le (by decide) bufSize_ge,
    hostMoves_idle _, hostMoves_busy _, Nat.lt_of_lt_of_le (by decide) (Nat.add_le_add_right bufSize_ge 12)⟩

/-- Each clause. -/
theorem witness_BusyWritesAreDropped :
    (∀ r ∈ [Reg.cmd, .inLen, .argType],
      (busyHost (.access (.write .reg r.offset .w32 7))).status.busy = true ∧
      (busyHost (.access (.write .reg r.offset .w32 7))).hostMoves (.access (.write .reg r.offset .w32 7)) []) ∧
    (busyHost (.access (.write .ibuf 11 .w8 7))).status.busy = true ∧ (11 : Word).toNat < Config.bufSize ∧
    (busyHost (.access (.write .ibuf 11 .w8 7))).hostMoves (.access (.write .ibuf 11 .w8 7)) [] :=
  ⟨fun _ _ => ⟨rfl, hostMoves_busy _⟩, rfl, Nat.lt_of_lt_of_le (by decide) bufSize_ge, hostMoves_busy _⟩

/-- Bit 2 set and bit 2 clear, idle and BUSY. -/
theorem witness_StatusWriteClearsWerr :
    ∀ v ∈ [0x00000004#32, 0xFFFFFFFB#32],
      (idleHost (.access (.write .reg 0x08 .w32 v))).hostMoves (.access (.write .reg 0x08 .w32 v)) [] ∧
      (busyHost (.access (.write .reg 0x08 .w32 v))).hostMoves (.access (.write .reg 0x08 .w32 v)) [] :=
  fun _ _ => ⟨hostMoves_idle _, hostMoves_busy _⟩

/-- Each clause. -/
theorem witness_IdleWritesAreTaken :
    (∀ op ∈ [HostOp.access (.write .reg 0x0C .w32 0xFFFFFFFF), .access (.write .reg 0x10 .w32 0xFFFFFFFF),
        .access (.write .ibuf 11 .w8 0xFF)], (idleHost op).status.busy = false ∧ (idleHost op).hostMoves op []) ∧
    (11 : Word).toNat < Config.bufSize :=
  ⟨fun _ _ => ⟨rfl, hostMoves_idle _⟩, Nat.lt_of_lt_of_le (by decide) bufSize_ge⟩

/-- A BUSY state with the invariant and an idle one, offsets inside the buffers, and the ends of the reserved ranges. -/
theorem witness_ReadsAreExactOrFree :
    slotIend.status.busy = true ∧ slotIend.Inv ∧ (∀ i ∈ [5, 7, 12, 31], (5 ≤ i ∧ i ≤ 7) ∨ (12 ≤ i ∧ i ≤ 31)) ∧
    State.reset.status.busy = false ∧ (11 : Word).toNat < Config.bufSize ∧
    (23 : Word).toNat < Config.bufSize + 12 ∧ (11 : Word).toNat < Space.dbuf.size ∧
    (23 : Word).toNat < Space.obuf.size := by
  have h := bufSize_ge
  refine ⟨rfl, slotIend_inv, by decide, rfl, ?_, ?_, ?_, ?_⟩ <;> simp [Space.size] <;> omega

/-- A legal read while idle and one while BUSY. -/
theorem witness_HostReadHasNoSideEffect :
    (idleHost (.access (.read .reg 0x38 .w32))).hostMoves (.access (.read .reg 0x38 .w32)) [] ∧
    (busyHost (.access (.read .reg 0x38 .w32))).hostMoves (.access (.read .reg 0x38 .w32)) [] ∧
    (Access.read .reg 0x38 .w32).legal = true :=
  ⟨hostMoves_idle _, hostMoves_busy _, by decide⟩

theorem witness_PollRepeatsWhileBusy :
    (idleHost .poll).hostMoves .poll [] ∧ (busyHost .poll).hostMoves .poll [] :=
  ⟨hostMoves_idle _, hostMoves_busy _⟩

theorem witness_CommandInProgressIsUntouched :
    ∃ (s t : State) (op : HostOp), s.status.busy = true ∧ s.hostMoves op [] ∧ op ≠ .reset ∧ step s = .next t :=
  ⟨busyHost (.access (.write .reg 0x0C .w32 7)), _, .access (.write .reg 0x0C .w32 7), rfl, hostMoves_busy _,
    by decide, rfl⟩

/-- Two host steps before the engine's, one of them a write that is dropped. -/
theorem witness_HostStepsDoNotChangeTheResult :
    ∃ s : State, s.status.busy = true ∧ s.hostFirst = 2 ∧ s.pending.length = 2 ∧
      ∀ op ∈ s.pending.take s.hostFirst, op ≠ .reset :=
  ⟨{ running 6 [] with hostFirst := 2, pending := [.access (.write .reg 0x0C .w32 7), .poll] }, by decide⟩

/-- A host step before the completion that is no reset event, and one that is. -/
theorem witness_CommandCompletesWithinItsDelay :
    ∀ op : HostOp, ({ slotIend with hostFirst := 1, pending := [op] } : State).Inv ∧
      ({ slotIend with hostFirst := 1, pending := [op] } : State).status.busy = true ∧
      ∀ o ∈ ({ slotIend with hostFirst := 1, pending := [.poll] } : State).pending.take 1, o ≠ .reset :=
  fun _ => ⟨{ slotIend_inv with }, rfl, by decide⟩

/-- Both orders. -/
theorem witness_WriteRacesWithCompletion :
    ∀ n ∈ [1, 0], ∃ s : State, s.status.busy = true ∧ s.curCmd = 0x00000006 ∧ s.inLen.toNat ≤ Config.bufSize ∧
      s.pending = [.access (.write .reg 0x0C .w32 3)] ∧ s.hostFirst = n :=
  fun n _ => ⟨{ busyHost (.access (.write .reg 0x0C .w32 3)) with hostFirst := n }, rfl, rfl, Nat.zero_le _, rfl, rfl⟩

/-! ## Witnesses: reset and the whole machine -/

/-- The reset event while a command is in progress. -/
theorem witness_ResetEventRestoresResetState : (busyHost .reset).hostMoves .reset [] := hostMoves_busy _

/-- A state with a chunk in its slot has the invariant and takes a step. -/
theorem witness_StepKeepsInvariant : slotIend.Inv ∧ ∃ t, step slotIend = .next t ∧ t.outLen = 12 :=
  ⟨slotIend_inv, next_of_after (f := (·.outLen)) (by decide)⟩

theorem witness_ValidSlotHoldsItsChecksum :
    slotIend.status.chValid = true ∧ slotIend.SlotHolds ∧ ∃ t, step slotIend = .next t ∧ t.status.chValid = true :=
  ⟨rfl, slotIend_inv.slot, next_of_after (f := (·.status.chValid)) (by decide)⟩

theorem witness_StepNeverStops : slotIend.Inv := slotIend_inv

/-- A step with the premises of the statement. -/
def stepsWithoutReset (s t : State) : Prop := step s = .next t ∧ ∀ rest, ¬s.hostMoves .reset rest

theorem stepsWithoutReset_of_after {α : Type} {s : State} {f : State → α} {a : α} (hp : s.pending = [])
    (h : after (step s) f = some a) : ∃ t, stepsWithoutReset s t ∧ f t = a := by
  obtain ⟨t, ht, e⟩ := next_of_after h
  exact ⟨t, ⟨ht, fun rest hr => by rw [hr.1] at hp; cases hp⟩, e⟩

/-- The engine's steps: one for each clause that it is named in. -/
theorem witness_OnlyNamedWritersChangeRegisters_engine :
    (∃ s t : State, stepsWithoutReset s t ∧ t.tReg ≠ s.tReg) ∧
    (∃ s t : State, stepsWithoutReset s t ∧ t.textErr ≠ s.textErr) ∧
    (∃ s t : State, stepsWithoutReset s t ∧ t.crcResult ≠ s.crcResult) ∧
    (∃ s t : State, stepsWithoutReset s t ∧ ¬s.keptSlot t) ∧
    (∃ s t : State, stepsWithoutReset s t ∧ t.status.chValid ≠ s.status.chValid) ∧
    (∃ s t : State, stepsWithoutReset s t ∧ ¬s.keptOut t) ∧
    (∃ s t : State, stepsWithoutReset s t ∧ ¬s.keptInfo t) := by
  refine ⟨?_, ?_, ?_, ?_, ?_, ?_, ?_⟩
  · obtain ⟨t, h, e⟩ := stepsWithoutReset_of_after (s := { running 1 [] with argType := 1 }) (f := (·.tReg)) (a := 1) rfl
      (by decide)
    exact ⟨_, t, h, by rw [e]; decide⟩
  · obtain ⟨t, h, -, e⟩ := step_ru1t
    exact ⟨_, t, ⟨h, fun r k => by cases k.1⟩, e⟩
  · obtain ⟨t, h, e⟩ := stepsWithoutReset_of_after (s := running 6 [0xFF]) (f := (·.crcResult)) (a := 0xFF000000) rfl
      (by decide +kernel)
    exact ⟨_, t, h, by rw [e]; decide⟩
  · obtain ⟨t, h, e⟩ := stepsWithoutReset_of_after (s := { running 3 [] with tReg := 1 }) (f := (·.chType)) (a := 1) rfl
      (by decide)
    exact ⟨_, t, h, fun k => absurd (e.symm.trans k.2.1) (by decide)⟩
  · obtain ⟨t, h, e⟩ := stepsWithoutReset_of_after (s := running 3 []) (f := (·.status.chValid)) (a := true) rfl
      (by decide)
    exact ⟨_, t, h, by rw [e]; decide⟩
  · obtain ⟨t, h, e⟩ := stepsWithoutReset_of_after (s := slotIend) (f := (·.outLen)) (a := 12) rfl (by decide)
    exact ⟨_, t, h, fun k => absurd (e.symm.trans k.1) (by decide)⟩
  · obtain ⟨t, h, e⟩ := stepsWithoutReset_of_after (s := running 7 []) (f := (·.info0)) (a := 7) rfl (by decide)
    exact ⟨_, t, h, fun k => absurd (e.symm.trans k.1) (by decide)⟩

/-- The host's steps: one for each clause that it is named in. -/
theorem witness_OnlyNamedWritersChangeRegisters_host :
    (∃ s t : State, stepsWithoutReset s t ∧ t.inLen ≠ s.inLen) ∧
    (∃ s t : State, stepsWithoutReset s t ∧ t.argType ≠ s.argType) ∧
    (∃ s t : State, stepsWithoutReset s t ∧ t.curCmd ≠ s.curCmd) ∧
    (∃ s t : State, stepsWithoutReset s t ∧ ¬s.ibuf.sameBytes t.ibuf) := by
  refine ⟨⟨idleHost (.access (.write .reg 0x0C .w32 1)), _, ⟨rfl, by rintro r ⟨h, -⟩; cases h⟩, by decide⟩,
    ⟨idleHost (.access (.write .reg 0x10 .w32 1)), _, ⟨rfl, by rintro r ⟨h, -⟩; cases h⟩, by decide⟩,
    ⟨idleHost (.access (.write .reg 0x04 .w32 1)), _, ⟨rfl, by rintro r ⟨h, -⟩; cases h⟩, by decide⟩,
    ⟨{ idleHost (.access (.write .ibuf 0 .w8 1)) with ibuf := { seed := 0, cells := [(0, 2)] } }, _,
      ⟨rfl, by rintro r ⟨h, -⟩; cases h⟩, ?_⟩⟩
  intro h
  have h0 := h 0
  rw [show (State.ibuf _) = Memory.write { seed := 0, cells := [(0, 2)] } 0 1 from
    congrArg State.ibuf (if_pos (Nat.lt_of_lt_of_le (m := 12) (by decide) bufSize_ge)), Memory.read_write_same] at h0
  exact absurd h0 (by decide)

/-- The fields of STATUS: BUSY, DONE and ERR by a completion, BUSY by an acceptance, and DONE and ERR by an acceptance
after a completion. -/
theorem witness_OnlyNamedWritersChangeRegisters_status :
    (∃ s t : State, stepsWithoutReset s t ∧ t.status.busy ≠ s.status.busy ∧ t.status.done ≠ s.status.done ∧
      t.status.err ≠ s.status.err) ∧
    (∃ s t : State, stepsWithoutReset s t ∧ s.status.busy = false ∧ t.status.busy = true ∧
      t.status.done ≠ s.status.done ∧ t.status.err ≠ s.status.err) := by
  constructor
  · obtain ⟨t, h, e⟩ := stepsWithoutReset_of_after (s := running 7 []) (f := (·.status))
      (a := { busy := false, done := true, werr := false, chValid := false, err := .illegalCmd }) rfl (by decide)
    exact ⟨_, t, h, by rw [e]; decide, by rw [e]; decide, by rw [e]; decide⟩
  · exact ⟨{ idleHost (.access (.write .reg 0x04 .w32 1)) with
        status := { busy := false, done := true, werr := false, chValid := false, err := .illegalCmd } }, _,
      ⟨rfl, by rintro r ⟨h, -⟩; cases h⟩, rfl, rfl, by decide, by decide⟩

/-- WERR set by each kind of dropped write, and cleared. -/
theorem witness_OnlyNamedWritersChangeRegisters_werr :
    (∀ off ∈ [(0x04 : Word), 0x0C, 0x10], ∃ t, stepsWithoutReset (busyHost (.access (.write .reg off .w32 1))) t ∧
      (busyHost (.access (.write .reg off .w32 1))).status.werr = false ∧ t.status.werr = true) ∧
    (∃ t, stepsWithoutReset (busyHost (.access (.write .ibuf 0 .w8 1))) t ∧
      (busyHost (.access (.write .ibuf 0 .w8 1))).status.werr = false ∧ t.status.werr = true) ∧
    (∃ t, stepsWithoutReset (idleHost (.access (.write .reg 0x08 .w32 4))) t ∧
      (idleHost (.access (.write .reg 0x08 .w32 4))).status.werr = true ∧ t.status.werr = false) := by
  refine ⟨?_, ⟨_, ⟨rfl, by rintro r ⟨h, -⟩; cases h⟩, rfl, ?_⟩, ⟨_, ⟨rfl, by rintro r ⟨h, -⟩; cases h⟩, rfl, by decide⟩⟩
  · intro off ho
    refine ⟨_, ⟨rfl, by rintro r ⟨h, -⟩; cases h⟩, rfl, ?_⟩
    fin_cases ho <;> decide
  · decide

end Sys2Proof.Tests
end

section
/-! The state family (10_state.md): what one step can do to the core, said once as two inductive predicates, and the
invariants, frames, host writes and races that follow from it. -/

namespace Sys2Proof.Machine

/-! ## What a completion can do -/

/-- The next states of a completion when CUR_CMD decodes to `d` (30_encoding.md R92): which fields it writes, with what
is needed to keep the invariant. The code and payload of a failure are left open. -/
inductive CompletionEffect (s : State) : Except DecodeReject Instr → State → Prop
  /-- A command that is refused, or an illegal word: nothing but the report. -/
  | report {d} (code : StatusCode) (i0 i1 : Word) : CompletionEffect s d (s.complete code i0 i1)
  /-- ENCODE or DECODE fails: CH_VALID is cleared (R167, R239). -/
  | invalidate {d} (code : StatusCode) (i0 i1 : Word) (hd : d = .ok .encode ∨ d = .ok .decode) :
      CompletionEffect s d ((s.setChValid false).complete code i0 i1)
  /-- ENCODE or DECODE succeeds: the slot takes a chunk with its own checksum (R161, R166). -/
  | fillSlot {d} (len type : Word) (data : List Byte) (hd : d = .ok .encode ∨ d = .ok .decode)
      (hlen : data.length = len.toNat) (hsize : len.toNat ≤ Config.bufSize) :
      CompletionEffect s d ((s.setSlot len type (crc32 (bytes32 type ++ data)) data).complete .ok 0 0)
  /-- TFRAW (R121). -/
  | tfraw : CompletionEffect s (.ok .tfraw) (State.complete { s with tReg := s.argType } .ok 0 0)
  /-- TFTEXT accepts its text (R123). -/
  | tftextOk (tag : Word) :
      CompletionEffect s (.ok .tftext) (State.complete { s with textErr := 0, tReg := tag } .ok 0 0)
  /-- TFTEXT rejects its text (R123). -/
  | tftextBad (mask : BitVec 3) :
      CompletionEffect s (.ok .tftext)
        (State.complete { s with textErr := mask.setWidth 32 } .validation (mask.setWidth 32) 0)
  /-- SERIALIZE with a chunk in the slot (R170). -/
  | serialize (hv : s.status.chValid = true) (hsize : s.chLength.toNat ≤ Config.bufSize) :
      CompletionEffect s (.ok .serialize) (State.complete
        { s with obuf := s.obuf.writeSeq 0 s.slotFrame, outLen := s.chLength + 12 } .ok 0 0)
  /-- CRC over an input that fits (R205). -/
  | crc (v : Word) : CompletionEffect s (.ok .crc) (State.complete { s with crcResult := v } .ok 0 0)

/-- A frame that DECODE accepts fills the slot with its own checksum (41_frame.md R164, R166). -/
theorem CompletionEffect.of_frame (s : State) {len : Word} {tag data : List Byte} {stored : Word}
    (hn : s.inLen.toNat ≤ Config.bufSize)
    (hf : decodeFrame (s.ibuf.slice 0 s.inLen.toNat) = .frame len tag data stored) :
    CompletionEffect s (.ok .decode) ((s.setSlot len (be32 tag) stored data).complete .ok 0 0) := by
  obtain ⟨-, htag, hdata, -, -, hlen, hcrc⟩ := decodeFrame_frame hf
  rw [Memory.length_slice] at hlen
  have htag4 : tag.length = 4 := htag ▸ length_frameTag (by rw [Memory.length_slice]; omega)
  rw [hcrc, ← bytes32_be32_of_length htag4, be32_bytes32]
  exact .fillSlot len (be32 tag) data (.inr rfl)
    (hdata ▸ length_frameData (by rw [Memory.length_slice]; omega)) (by omega)

/-- Every command's completion is one of the effects. -/
theorem exec_effect {i : Instr} {s t : State} (h : exec i s = .next t) : CompletionEffect s (.ok i) t := by
  cases i with
  | tfraw =>
    obtain rfl := Host.Outcome.next.inj ((execTfraw_eq s).symm.trans h)
    exact .tfraw
  | tftext =>
    obtain rfl | ⟨-, rfl⟩ | ⟨-, rfl⟩ := execTftext_cases h
    · exact .report ..
    · exact .tftextOk _
    · exact .tftextBad _
  | encode =>
    obtain rfl | ⟨hn, rfl⟩ := execEncode_cases h
    · exact .invalidate _ _ _ (.inl rfl)
    · exact .fillSlot _ _ _ (.inl rfl) (Memory.length_slice ..) hn
  | decode =>
    obtain ⟨code, i0, i1, -, rfl⟩ | ⟨len, tag, data, stored, hn, hf, rfl⟩ := execDecode_cases h
    · exact .invalidate _ _ _ (.inr rfl)
    · exact .of_frame s hn hf
  | serialize =>
    obtain ⟨-, rfl⟩ | ⟨hv, hl, rfl⟩ := execSerialize_cases h
    · exact .report ..
    · exact .serialize hv hl
  | crc =>
    obtain rfl | rfl := execCrc_cases h
    · exact .report ..
    · exact .crc _

/-- A step is the engine's completion, with its effect, or a host step. -/
theorem step_effect {s t : State} (h : step s = .next t) :
    (s.engineMoves ∧ CompletionEffect s (decode s.curCmd) t) ∨ (s.engineTurn = false ∧ t = s.hostStep) := by
  obtain ⟨he, i, hd, hx⟩ | ⟨he, -, rfl⟩ | hh := step_cases h
  · exact .inl ⟨State.engineMoves_of_turn he, hd ▸ exec_effect hx⟩
  · exact .inl ⟨State.engineMoves_of_turn he, .report ..⟩
  · exact .inr hh

/-! ## What a host step can do -/

/-- What a host step other than the reset event can do to the core: nothing, a counted draw, one of the changes of
WERR, or a write that is taken while idle (70_reset_and_hazards.md R265, 10_state.md R24 to R40). -/
inductive HostEffect (s : State) : HostOp → State → Prop
  /-- A read that is refused, or a write that is refused or ignored. -/
  | same {op} : HostEffect s op s
  /-- A read, or one turn of POLL. -/
  | draw {op} : HostEffect s op s.countDraw
  /-- A write of CMD, IN_LEN or ARG_TYPE while BUSY is dropped (R265). -/
  | dropReg {r : Reg} (v : Word) (hb : s.status.busy = true) (hr : r = .cmd ∨ r = .inLen ∨ r = .argType) :
      HostEffect s (.access (.write .reg r.offset .w32 v)) (s.setWerr true)
  /-- A write of a byte of IBUF while BUSY is dropped (R265). -/
  | dropIbuf (off v : Word) (hb : s.status.busy = true) :
      HostEffect s (.access (.write .ibuf off .w8 v)) (s.setWerr true)
  /-- A write of STATUS with bit 2 set (R27). -/
  | clearWerr {v : Word} (hv : v.getLsbD 2 = true) :
      HostEffect s (.access (.write .reg 0x08 .w32 v)) (s.setWerr false)
  /-- An acceptance (R21). -/
  | accept (v : Word) (hb : s.status.busy = false) : HostEffect s (.access (.write .reg 0x04 .w32 v)) (s.accept v)
  /-- A write of IN_LEN (R28). -/
  | setInLen (v : Word) (hb : s.status.busy = false) :
      HostEffect s (.access (.write .reg 0x0C .w32 v)) { s with inLen := v }
  /-- A write of ARG_TYPE (R29). -/
  | setArgType (v : Word) (hb : s.status.busy = false) :
      HostEffect s (.access (.write .reg 0x10 .w32 v)) { s with argType := v }
  /-- A write of a byte of IBUF (20_memory.md R66). -/
  | setIbuf {off : Word} (v : Word) (hb : s.status.busy = false) (ho : off.toNat < Config.bufSize) :
      HostEffect s (.access (.write .ibuf off .w8 v)) { s with ibuf := s.ibuf.write off.toNat (v.setWidth 8) }

/-- A write of a register is one of the effects. -/
theorem writeReg_effect (s : State) (v : Word) (r : Reg) :
    HostEffect s (.access (.write .reg r.offset .w32 v)) (s.writeReg v r) := by
  obtain h | ⟨hb, hr, h⟩ | ⟨rfl, hv, h⟩ | ⟨hb, rfl, h⟩ | ⟨hb, rfl, h⟩ | ⟨hb, rfl, h⟩ :=
    s.writeReg_cases v r <;> rw [h]
  · exact .same
  · exact .dropReg v hb hr
  · exact .clearWerr hv
  · exact .accept v hb
  · exact .setInLen v hb
  · exact .setArgType v hb

/-- Every access is one of the effects. -/
theorem performAccess_effect (s : State) (a : Access) : HostEffect s (.access a) (s.performAccess a) := by
  obtain h | h | ⟨v, r, rfl, h⟩ | ⟨off, v, rfl, ho, h⟩ := s.performAccess_cases a <;> rw [h]
  · exact .same
  · exact .draw
  · exact writeReg_effect s v r
  · cases hb : s.status.busy with
    | true => exact State.writeIbuf_busy hb _ _ ▸ .dropIbuf off v hb
    | false => exact State.writeIbuf_idle hb _ _ ▸ .setIbuf v hb ho

/-- A host step that is not the reset event: the turn is taken, with the program going on or POLL repeated; the core
changes by one effect; and a response is recorded. -/
theorem hostStep_effect {s : State} {op : HostOp} {rest : List HostOp} (hp : s.pending = op :: rest)
    (hop : op ≠ .reset) :
    ∃ left u r, s.hostStep = u.pushResponse r ∧ (left = rest ∨ left = op :: rest) ∧
      HostEffect (s.hostTurn left) op u := by
  cases op with
  | access a => exact ⟨rest, _, _, State.hostStep_access hp, .inl rfl, performAccess_effect _ a⟩
  | poll => exact ⟨_, _, _, State.hostStep_poll hp, by split_ifs <;> simp, .draw⟩
  | reset => exact absurd rfl hop

/-- A property that every completion and every host effect keeps, that the reset event establishes, and that does not
look at the host's program and responses, is kept by every step. -/
theorem step_keeps {P : State → Prop} (turn : ∀ s left, P s → P (s.hostTurn left))
    (push : ∀ s r, P s → P (s.pushResponse r)) (completion : ∀ s d t, CompletionEffect s d t → P s → P t)
    (host : ∀ s op u, HostEffect s op u → P s → P u) (reset : ∀ s : State, P s.resetEvent)
    {s t : State} (hs : P s) (h : step s = .next t) : P t := by
  obtain ⟨-, he⟩ | ⟨-, rfl⟩ := step_effect h
  · exact completion _ _ _ he hs
  · cases hp : s.pending with
    | nil => rwa [State.hostStep_nil hp]
    | cons op rest =>
      by_cases hop : op = .reset
      · subst hop
        rw [State.hostStep_reset hp]
        exact reset _
      · obtain ⟨left, u, r, e, -, hu⟩ := hostStep_effect hp hop
        rw [e]
        exact push _ _ (host _ _ _ hu (turn _ _ hs))

/-! ## The invariant of the slot (R41) -/

theorem State.slotHolds_of_invalid {s : State} (h : s.status.chValid = false) : s.SlotHolds :=
  fun hv => absurd hv (by simp [h])

/-- A slot that takes a chunk with its own checksum holds R41. -/
theorem State.slotHolds_setSlot (s : State) {len type : Word} {data : List Byte} (hlen : data.length = len.toNat)
    (hsize : len.toNat ≤ Config.bufSize) : (s.setSlot len type (crc32 (bytes32 type ++ data)) data).SlotHolds := by
  intro _
  rw [State.setSlot_chLength, State.setSlot_chCrc, State.setSlot_chType, State.setSlot_dbuf, ← hlen,
    Memory.slice_writeSeq]
  exact ⟨hlen ▸ hsize, rfl⟩

theorem CompletionEffect.slotHolds {s t : State} {d : Except DecodeReject Instr} (h : CompletionEffect s d t)
    (hs : s.SlotHolds) : t.SlotHolds := by
  cases h with
  | report | tfraw | tftextOk | tftextBad | serialize | crc => exact hs
  | invalidate => exact State.slotHolds_of_invalid rfl
  | fillSlot len type data _ hlen hsize => exact s.slotHolds_setSlot hlen hsize

theorem State.slotHolds_countDraw {s : State} (hs : s.SlotHolds) : s.countDraw.SlotHolds := by
  simpa [State.SlotHolds] using hs

theorem HostEffect.slotHolds {s u : State} {op : HostOp} (h : HostEffect s op u) (hs : s.SlotHolds) : u.SlotHolds := by
  cases h with
  | draw => exact State.slotHolds_countDraw hs
  | same | dropReg | dropIbuf | clearWerr | accept | setInLen | setArgType | setIbuf => exact hs

/-- Settles O55: a completion leaves the slot, clears CH_VALID or fills the slot with its own checksum; no host step
touches it but the reset event, which clears CH_VALID. -/
theorem validSlotHoldsItsChecksum : Obligations.ValidSlotHoldsItsChecksum :=
  ⟨State.slotHolds_of_invalid rfl, fun _ _ hs h => step_keeps (P := State.SlotHolds) (fun _ _ hs => hs)
    (fun _ _ hs => hs) (fun _ _ _ he => he.slotHolds) (fun _ _ _ he => he.slotHolds)
    (fun _ => State.slotHolds_of_invalid rfl) hs h⟩

/-! ## The invariant of the core -/

theorem State.inv_complete {s : State} (h : s.Inv) (code : StatusCode) (i0 i1 : Word) : (s.complete code i0 i1).Inv :=
  { h with busy := fun hb => absurd hb (by simp) }

/-- The frame that SERIALIZE writes fits in OBUF (10_state.md R37), and OUT_LEN does not wrap. -/
theorem State.inv_serialize {s : State} (h : s.Inv) (hsize : s.chLength.toNat ≤ Config.bufSize) :
    ({ s with obuf := s.obuf.writeSeq 0 s.slotFrame, outLen := s.chLength + 12 } : State).Inv :=
  { h with
    obuf := Memory.sound_writeSeq h.obuf (by rw [State.length_slotFrame]; simp only [Space.size]; omega)
    outLen := by
      have : (12#32).toNat = 12 := rfl
      show (s.chLength + 12#32).toNat ≤ Config.bufSize + 12
      rw [BitVec.toNat_add, this]
      omega }

theorem CompletionEffect.inv {s t : State} {d : Except DecodeReject Instr} (h : CompletionEffect s d t)
    (hs : s.Inv) : t.Inv := by
  cases h with
  | report code i0 i1 => exact State.inv_complete hs code i0 i1
  | invalidate code i0 i1 =>
    have hi : (s.setChValid false).Inv := { hs with slot := State.slotHolds_of_invalid rfl }
    exact State.inv_complete hi code i0 i1
  | fillSlot len type data _ hlen hsize =>
    have hi : (s.setSlot len type (crc32 (bytes32 type ++ data)) data).Inv := { hs with
      dbuf := Memory.sound_writeSeq hs.dbuf (by simp only [Space.size]; omega)
      slot := s.slotHolds_setSlot hlen hsize }
    exact State.inv_complete hi .ok 0 0
  | tfraw =>
    have hi : ({ s with tReg := s.argType } : State).Inv := { hs with }
    exact State.inv_complete hi .ok 0 0
  | tftextOk tag =>
    have hi : ({ s with textErr := 0, tReg := tag } : State).Inv := { hs with textErr := by simp }
    exact State.inv_complete hi .ok 0 0
  | tftextBad mask =>
    have hi : ({ s with textErr := mask.setWidth 32 } : State).Inv :=
      { hs with textErr := by simpa using Nat.lt_of_le_of_lt (Nat.mod_le _ _) mask.isLt }
    exact State.inv_complete hi .validation (mask.setWidth 32) 0
  | serialize _ hsize => exact State.inv_complete (State.inv_serialize hs hsize) .ok 0 0
  | crc v =>
    have hi : ({ s with crcResult := v } : State).Inv := { hs with }
    exact State.inv_complete hi .ok 0 0

theorem HostEffect.inv {s u : State} {op : HostOp} (h : HostEffect s op u) (hs : s.Inv) : u.Inv := by
  cases h with
  | same => exact hs
  | draw => unfold State.countDraw; split <;> exact { hs with }
  | dropReg | dropIbuf | clearWerr | setInLen | setArgType => exact { hs with }
  | accept => exact { hs with busy := fun _ => ⟨rfl, rfl⟩ }
  | setIbuf v _ ho => exact { hs with ibuf := Memory.sound_write _ hs.ibuf ho }

/-- The reset event makes the invariant hold, whatever came before. -/
theorem State.inv_resetEvent (s : State) : s.resetEvent.Inv where
  ibuf := Memory.sound_empty _ _
  dbuf := Memory.sound_empty _ _
  obuf := Memory.sound_empty _ _
  slot := State.slotHolds_of_invalid rfl
  busy := fun hb => absurd hb (by simp [State.reset])
  textErr := by simp
  outLen := Nat.zero_le _

/-- Settles O54: every effect of a completion and of a host step keeps the invariant, and the reset event establishes
it. -/
theorem stepKeepsInvariant : Obligations.StepKeepsInvariant :=
  fun _ _ hs h => step_keeps (P := State.Inv) (fun _ _ hs => { hs with }) (fun _ _ hs => { hs with })
    (fun _ _ _ he => he.inv) (fun _ _ _ he => he.inv) State.inv_resetEvent hs h

/-- The reset state is what the reset event makes of a state in which no draw has been made. -/
theorem reset_eq_resetEvent : State.reset = ({ State.reset with draws := 0 } : State).resetEvent := rfl

/-- Settles O53, as a case of the reset event. -/
theorem resetHasInvariant : Obligations.ResetHasInvariant := by
  unfold Obligations.ResetHasInvariant
  rw [reset_eq_resetEvent]
  exact State.inv_resetEvent _

end Sys2Proof.Machine
end

section
/-! What a completion and a host step leave unchanged, and the statements about single host writes, races, completion
times and register values. -/

namespace Sys2Proof.Machine

/-! ## Frames of a completion -/

section
variable {s t : State} {d : Except DecodeReject Instr}

theorem CompletionEffect.keptInputs (h : CompletionEffect s d t) : s.keptInputs t := by
  cases h <;> exact ⟨rfl, rfl, rfl, fun _ => rfl⟩

theorem CompletionEffect.status (h : CompletionEffect s d t) :
    t.status.busy = false ∧ t.status.done = true ∧ t.status.werr = s.status.werr := by
  cases h <;> exact ⟨rfl, rfl, rfl⟩

theorem CompletionEffect.tReg (h : CompletionEffect s d t) :
    t.tReg = s.tReg ∨ d = .ok .tfraw ∨ d = .ok .tftext := by
  cases h <;> simp

theorem CompletionEffect.textErr (h : CompletionEffect s d t) : t.textErr = s.textErr ∨ d = .ok .tftext := by
  cases h <;> simp

theorem CompletionEffect.crcResult (h : CompletionEffect s d t) : t.crcResult = s.crcResult ∨ d = .ok .crc := by
  cases h <;> simp

theorem CompletionEffect.slot (h : CompletionEffect s d t) :
    (s.keptSlot t ∧ t.status.chValid = s.status.chValid) ∨ d = .ok .encode ∨ d = .ok .decode := by
  cases h with
  | invalidate _ _ _ hd | fillSlot _ _ _ hd => exact .inr hd
  | report | tfraw | tftextOk | tftextBad | serialize | crc => exact .inl ⟨⟨rfl, rfl, rfl, fun _ => rfl⟩, rfl⟩

theorem CompletionEffect.out (h : CompletionEffect s d t) : s.keptOut t ∨ d = .ok .serialize := by
  cases h with
  | serialize => exact .inr rfl
  | report | invalidate | fillSlot | tfraw | tftextOk | tftextBad | crc => exact .inl ⟨rfl, fun _ => rfl⟩

end

/-! ## Frames of a host step -/

@[simp] theorem Memory.sameBytes_refl (m : Memory) : m.sameBytes m := fun _ => rfl

theorem State.keptAllButStatus_refl (s : State) : s.keptAllButStatus s := by
  simp [State.keptAllButStatus, State.keptInputs, State.keptTag, State.keptSlot, State.keptOut, State.keptInfo]

section
variable {s u : State} {op : HostOp}

/-- No host effect touches what the engine alone writes. -/
theorem HostEffect.keptResults (h : HostEffect s op u) :
    s.keptTag u ∧ u.crcResult = s.crcResult ∧ s.keptSlot u ∧ s.keptOut u ∧ s.keptInfo u := by
  cases h <;> simp [State.keptTag, State.keptSlot, State.keptOut, State.keptInfo]

theorem HostEffect.chValid (h : HostEffect s op u) : u.status.chValid = s.status.chValid := by
  cases h <;> simp

theorem HostEffect.pending (h : HostEffect s op u) : u.pending = s.pending := by
  cases h <;> simp

theorem HostEffect.inLen (h : HostEffect s op u) :
    u.inLen = s.inLen ∨ (s.status.busy = false ∧ ∃ v, op = .access (.write .reg 0x0C .w32 v)) := by
  cases h with
  | setInLen v hb => exact .inr ⟨hb, v, rfl⟩
  | same | draw | dropReg | dropIbuf | clearWerr | accept | setArgType | setIbuf => exact .inl (by simp)

theorem HostEffect.argType (h : HostEffect s op u) :
    u.argType = s.argType ∨ (s.status.busy = false ∧ ∃ v, op = .access (.write .reg 0x10 .w32 v)) := by
  cases h with
  | setArgType v hb => exact .inr ⟨hb, v, rfl⟩
  | same | draw | dropReg | dropIbuf | clearWerr | accept | setInLen | setIbuf => exact .inl (by simp)

theorem HostEffect.ibuf (h : HostEffect s op u) :
    u.ibuf = s.ibuf ∨ (s.status.busy = false ∧ ∃ off v, op = .access (.write .ibuf off .w8 v)) := by
  cases h with
  | setIbuf v hb => exact .inr ⟨hb, _, v, rfl⟩
  | same | draw | dropReg | dropIbuf | clearWerr | accept | setInLen | setArgType => exact .inl (by simp)

/-- CUR_CMD and the fields BUSY, DONE and ERR change by an acceptance alone. -/
theorem HostEffect.command (h : HostEffect s op u) :
    (u.curCmd = s.curCmd ∧ u.status.busy = s.status.busy ∧ u.status.done = s.status.done ∧
      u.status.err = s.status.err) ∨
    (s.status.busy = false ∧ ∃ v, op = .access (.write .reg 0x04 .w32 v)) := by
  cases h with
  | accept v hb => exact .inr ⟨hb, v, rfl⟩
  | same | draw | dropReg | dropIbuf | clearWerr | setInLen | setArgType | setIbuf => exact .inl (by simp)

/-- WERR is set by a dropped write alone. -/
theorem HostEffect.werr_set (h : HostEffect s op u) (hs : s.status.werr = false) (hu : u.status.werr = true) :
    s.status.busy = true ∧ ∃ sp off w v, op = .access (.write sp off w v) ∧
      ((sp = .reg ∧ w = .w32 ∧ (off = 0x04 ∨ off = 0x0C ∨ off = 0x10)) ∨ (sp = .ibuf ∧ w = .w8)) := by
  cases h with
  | dropReg v hb hr => exact ⟨hb, _, _, _, v, rfl, .inl ⟨rfl, rfl, by obtain rfl | rfl | rfl := hr <;> decide⟩⟩
  | dropIbuf off v hb => exact ⟨hb, _, off, _, v, rfl, .inr ⟨rfl, rfl⟩⟩
  | same | draw | clearWerr | accept | setInLen | setArgType | setIbuf => simp [hs] at hu

/-- WERR is cleared by a write of STATUS with bit 2 set alone. -/
theorem HostEffect.werr_cleared (h : HostEffect s op u) (hs : s.status.werr = true) (hu : u.status.werr = false) :
    ∃ v, op = .access (.write .reg 0x08 .w32 v) ∧ v.getLsbD 2 = true := by
  cases h with
  | clearWerr hv => exact ⟨_, rfl, hv⟩
  | same | draw | dropReg | dropIbuf | accept | setInLen | setArgType | setIbuf => simp [hs] at hu

/-- While BUSY a host effect changes WERR alone, and the engine's turn comes no later (70_reset_and_hazards.md R265). -/
theorem HostEffect.of_busy (h : HostEffect s op u) (hb : s.status.busy = true) :
    u.status = { s.status with werr := u.status.werr } ∧ s.keptAllButStatus u ∧ u.hostFirst = s.hostFirst := by
  cases h with
  | accept _ hb' | setInLen _ hb' | setArgType _ hb' | setIbuf _ hb' => simp [hb] at hb'
  | same | dropReg | dropIbuf | clearWerr => exact ⟨rfl, s.keptAllButStatus_refl, rfl⟩
  | draw => unfold State.countDraw; split <;> exact ⟨rfl, s.keptAllButStatus_refl, rfl⟩

end

/-! ## Only the named writers change a register -/

theorem State.hostMoves_of_pending {s : State} {op : HostOp} {rest : List HostOp} (he : s.engineTurn = false)
    (hp : s.pending = op :: rest) : s.hostMoves op rest := by
  refine ⟨hp, ?_⟩
  cases hb : s.status.busy with
  | false => exact .inl rfl
  | true => exact .inr (by simpa [State.engineTurn, hb, hp] using he)

/-- A step that is not the reset event: a completion, no change for want of a host program, or one host effect. -/
theorem step_effect_of_no_reset {s t : State} (h : step s = .next t) (hr : ∀ rest, ¬s.hostMoves .reset rest) :
    (s.engineMoves ∧ CompletionEffect s (decode s.curCmd) t) ∨ t = s ∨
    ∃ op rest left u r, s.hostMoves op rest ∧ t = u.pushResponse r ∧ HostEffect (s.hostTurn left) op u := by
  obtain he | ⟨he, rfl⟩ := step_effect h
  · exact .inl he
  · cases hp : s.pending with
    | nil => exact .inr (.inl (State.hostStep_nil hp))
    | cons op rest =>
      have hm := State.hostMoves_of_pending he hp
      have hop : op ≠ .reset := by rintro rfl; exact hr rest hm
      obtain ⟨left, u, r, e, -, hu⟩ := hostStep_effect hp hop
      exact .inr (.inr ⟨op, rest, left, u, r, hm, e, hu⟩)

/-- Settles O57: clause by clause, from the frames of a completion and of a host effect. -/
theorem onlyNamedWritersChangeRegisters : Obligations.OnlyNamedWritersChangeRegisters := by
  intro s t h hr
  obtain ⟨hm, he⟩ | rfl | ⟨op, rest, left, u, r, ⟨hp, hturn⟩, rfl, hu⟩ := step_effect_of_no_reset h hr
  · obtain ⟨hin, harg, hcmd, hibuf⟩ := he.keptInputs
    obtain ⟨-, -, hwerr⟩ := he.status
    exact ⟨fun k => ⟨hm, he.tReg.resolve_left k⟩, fun k => ⟨hm, he.textErr.resolve_left k⟩,
      fun k => ⟨hm, he.crcResult.resolve_left k⟩,
      fun k => ⟨hm, he.slot.resolve_left fun hk => k.elim (· hk.1) (· hk.2)⟩,
      fun k => ⟨hm, he.out.resolve_left k⟩, fun _ => hm, fun k => absurd hin k, fun k => absurd harg k,
      fun k => absurd hcmd k, fun k => absurd hibuf k, fun _ => .inl hm, fun k => by simp [hwerr, k.1] at k,
      fun k => by simp [hwerr, k.1] at k⟩
  · simp [State.keptSlot, State.keptOut, State.keptInfo]
  · obtain ⟨htag, hcrc, hslot, hout, hinfo⟩ := hu.keptResults
    refine ⟨fun k => absurd htag.1 k, fun k => absurd htag.2 k, fun k => absurd hcrc k,
      fun k => (k.elim (· hslot) (· hu.chValid)).elim, fun k => absurd hout k, fun k => absurd hinfo k, fun k => ?_,
      fun k => ?_, fun k => ?_, fun k => ?_, fun k => ?_, fun k => ?_, fun k => ?_⟩
    · obtain ⟨hb, v, rfl⟩ := hu.inLen.resolve_left k
      exact ⟨hb, v, rest, hp⟩
    · obtain ⟨hb, v, rfl⟩ := hu.argType.resolve_left k
      exact ⟨hb, v, rest, hp⟩
    · obtain ⟨hb, v, rfl⟩ := hu.command.resolve_left fun hk => k hk.1
      exact ⟨hb, v, rest, hp⟩
    · obtain ⟨hb, off, v, rfl⟩ := hu.ibuf.resolve_left fun hk => k fun a => congrArg (·.read a) hk
      exact ⟨hb, off, v, rest, hp⟩
    · obtain ⟨hb, v, rfl⟩ := hu.command.resolve_left fun ⟨_, hbusy, hdone, herr⟩ =>
        k.elim (· hbusy) (·.elim (· hdone) (· herr))
      exact .inr ⟨hb, v, rest, hp⟩
    · obtain ⟨hb, sp, off, w, v, rfl, hw⟩ := hu.werr_set k.1 k.2
      exact ⟨hb, sp, off, w, v, rest, ⟨hp, hturn⟩, hw⟩
    · obtain ⟨v, rfl, hv⟩ := hu.werr_cleared k.1 k.2
      exact ⟨v, rest, ⟨hp, hturn⟩, hv⟩

/-! ## The completion of a command in progress -/

theorem core_run_succ (M : Host.Core) {s t : M.State} (h : M.step s = .next t) (k : Nat) :
    M.run (k + 1) s = M.run k t := by
  rw [Host.Core.run, h]

theorem run_succ_of_step {s t : State} (h : step s = .next t) (k : Nat) :
    Host.Core.run Sys2Proof.core (k + 1) s = Host.Core.run Sys2Proof.core k t :=
  core_run_succ Sys2Proof.core h k

theorem run_one_of_step {s t : State} (h : step s = .next t) : Host.Core.run Sys2Proof.core 1 s = .next t :=
  run_succ_of_step h 0

theorem run_two_of_steps {s t u : State} (h : step s = .next t) (h' : step t = .next u) :
    Host.Core.run Sys2Proof.core 2 s = .next u :=
  (run_succ_of_step h 1).trans (run_one_of_step h')

/-- Settles O5: the completion decodes CUR_CMD. -/
theorem stepRunsDecodedCommand : Obligations.StepRunsDecodedCommand := by
  intro s i hm hd
  rw [step_engine (State.engineTurn_of_moves hm), completion_of_decode hd]

/-- Under the invariant no completion stops: R41 rules out the fault of log 9. -/
theorem State.completion_answers {s : State} (hi : s.Inv) : ∃ t, s.completion = .next t := by
  cases hd : decode s.curCmd with
  | error r => exact ⟨_, completion_of_reject hd⟩
  | ok i =>
    rw [completion_of_decode hd]
    by_contra hstop
    obtain ⟨-, hv, hl⟩ := exec_stops_only (not_exists.1 hstop)
    exact absurd (hi.slot hv).1 (Nat.not_le.2 hl)

/-- On the engine's turn the command completes in one step. -/
theorem State.engine_completes {s : State} (hi : s.Inv) (hm : s.engineMoves) :
    ∃ t, step s = .next t ∧ t.status.busy = false ∧ t.status.done = true ∧ t.curCmd = s.curCmd := by
  have hturn := State.engineTurn_of_moves hm
  obtain ⟨t, ht⟩ := State.completion_answers hi
  rw [← step_engine hturn] at ht
  obtain ⟨-, he⟩ | ⟨hf, -⟩ := step_effect ht
  · obtain ⟨hbusy, hdone, -⟩ := he.status
    obtain ⟨-, -, hcmd, -⟩ := he.keptInputs
    exact ⟨t, ht, hbusy, hdone, hcmd⟩
  · simp [hturn] at hf

/-- A host step while BUSY, short of the reset event: it changes WERR alone, counts down to the completion, and leaves
the program, or its tail. -/
theorem State.hostStep_busy {s : State} {op : HostOp} {rest : List HostOp} (hb : s.status.busy = true)
    (hp : s.pending = op :: rest) (hop : op ≠ .reset) :
    s.hostStep.status = { s.status with werr := s.hostStep.status.werr } ∧ s.keptAllButStatus s.hostStep ∧
    s.hostStep.hostFirst = s.hostFirst - 1 ∧ (s.hostStep.pending = rest ∨ s.hostStep.pending = op :: rest) := by
  obtain ⟨left, u, r, e, hleft, hu⟩ := hostStep_effect hp hop
  obtain ⟨hstatus, hkept, hfirst⟩ := hu.of_busy hb
  have hpend : u.pending = left := hu.pending
  rw [e]
  exact ⟨hstatus, hkept, hfirst, by rwa [State.pushResponse_pending, hpend]⟩

/-- Within `n` host steps and a completion BUSY falls; without a reset event among those host steps it is the
completion that does it. -/
def State.CompletesWithin (s : State) (n : Nat) : Prop :=
  ∃ k t, k ≤ n + 1 ∧ Host.Core.run Sys2Proof.core k s = .next t ∧ t.status.busy = false ∧
    ((∀ op ∈ s.pending.take n, op ≠ .reset) → t.status.done = true ∧ t.curCmd = s.curCmd)

theorem State.completesWithin_of_engineMoves {s : State} (hi : s.Inv) (hm : s.engineMoves) (n : Nat) :
    s.CompletesWithin n := by
  obtain ⟨t, ht, hbusy, hdone, hcmd⟩ := State.engine_completes hi hm
  exact ⟨1, t, by omega, run_one_of_step ht, hbusy, fun _ => ⟨hdone, hcmd⟩⟩

/-- A reset event, which aborts the command (70_reset_and_hazards.md R261). -/
theorem State.completesWithin_of_reset {s : State} {rest : List HostOp} (hp : s.pending = .reset :: rest)
    (hstep : step s = .next s.hostStep) (n : Nat) : s.CompletesWithin (n + 1) := by
  rw [State.hostStep_reset hp] at hstep
  exact ⟨1, _, by omega, run_one_of_step hstep, rfl, fun h => absurd rfl (h .reset (by simp [hp]))⟩

/-- Any other host step brings the completion one step nearer. -/
theorem State.completesWithin_succ {s : State} {op : HostOp} {rest : List HostOp} {n : Nat}
    (hb : s.status.busy = true) (hp : s.pending = op :: rest) (hop : op ≠ .reset) (hstep : step s = .next s.hostStep)
    (h : s.hostStep.CompletesWithin n) : s.CompletesWithin (n + 1) := by
  obtain ⟨-, ⟨⟨-, -, hcmd, -⟩, -⟩, -, hpend⟩ := State.hostStep_busy hb hp hop
  obtain ⟨k, t, hk, hrun, hbusy, hdone⟩ := h
  refine ⟨k + 1, t, by omega, (run_succ_of_step hstep k).trans hrun, hbusy, fun hno => ?_⟩
  rw [← hcmd]
  rw [hp] at hno
  refine hdone fun o ho => hno o ?_
  obtain e | e := hpend <;> rw [e] at ho
  · exact List.mem_cons_of_mem _ ho
  · exact List.take_subset_take_left _ n.le_succ ho

theorem State.completesWithin_hostFirst {s : State} (hi : s.Inv) (hb : s.status.busy = true) :
    s.CompletesWithin s.hostFirst := by
  induction hn : s.hostFirst generalizing s with
  | zero => exact State.completesWithin_of_engineMoves hi ⟨hb, .inl hn⟩ 0
  | succ n ih =>
    cases hp : s.pending with
    | nil => exact State.completesWithin_of_engineMoves hi ⟨hb, .inr hp⟩ (n + 1)
    | cons op rest =>
      have hstep := step_host (State.engineTurn_of_hostMoves ⟨hp, .inr (by omega)⟩)
      by_cases hop : op = .reset
      · subst hop
        exact State.completesWithin_of_reset hp hstep n
      · obtain ⟨hstatus, -, hfirst, -⟩ := State.hostStep_busy hb hp hop
        have hbusy : s.hostStep.status.busy = true := by rw [hstatus]; exact hb
        exact State.completesWithin_succ hb hp hop hstep
          (ih (stepKeepsInvariant _ _ hi hstep) hbusy (by omega))

/-- Settles O49: by induction on the number of host steps that go before the completion. -/
theorem commandCompletesWithinItsDelay : Obligations.CommandCompletesWithinItsDelay := by
  intro s hi hb
  obtain ⟨k, t, hk, hrun, hbusy, hdone⟩ := State.completesWithin_hostFirst hi hb
  exact ⟨fun h => ⟨k, t, hk, hrun, hbusy, hdone h⟩, k, t, hk, hrun, hbusy⟩

/-! ## One host write -/

section
variable {s : State} {rest : List HostOp} {v : Word}

theorem step_access {a : Access} (h : s.hostMoves (.access a) rest) :
    step s = .next (((s.hostTurn rest).performAccess a).pushResponse (s.respond a)) := by
  rw [step_host (State.engineTurn_of_hostMoves h), State.hostStep_access h.1]

/-- A write of a register gets OK and acts by the register's rule. -/
theorem step_writeReg {r : Reg} (h : s.hostMoves (.access (.write .reg r.offset .w32 v)) rest) :
    step s = .next (((s.hostTurn rest).writeReg v r).pushResponse .ok) := by
  rw [step_access h]
  simp only [State.performAccess, State.respond, Reg.ofOffset_offset]

theorem step_writeIbuf {off : Word} (h : s.hostMoves (.access (.write .ibuf off .w8 v)) rest)
    (ho : off.toNat < Config.bufSize) :
    step s = .next (((s.hostTurn rest).writeIbuf off.toNat (v.setWidth 8)).pushResponse .ok) := by
  have ho' : off.toNat < Space.ibuf.size := ho
  rw [step_access h]
  simp only [State.performAccess, State.respond, if_pos ho']

/-- A write of DBUF or OBUF gets OK and does nothing (20_memory.md R66). -/
theorem step_writeResultBuffer {sp : Space} {off : Word} (hsp : sp = .dbuf ∨ sp = .obuf) (ho : off.toNat < sp.size)
    (h : s.hostMoves (.access (.write sp off .w8 v)) rest) : step s = .next ((s.hostTurn rest).pushResponse .ok) := by
  rw [step_access h]
  obtain rfl | rfl := hsp <;> simp only [State.performAccess, State.respond, if_pos ho]

end

section
variable {s : State} (v : Word)

theorem State.writeReg_busy {r : Reg} (hb : s.status.busy = true) (hr : r = .cmd ∨ r = .inLen ∨ r = .argType) :
    s.writeReg v r = s.setWerr true := by
  obtain rfl | rfl | rfl := hr <;> exact if_pos hb

theorem State.writeReg_cmd_idle (hb : s.status.busy = false) : s.writeReg v .cmd = s.accept v :=
  if_neg (by simp [hb])

theorem State.writeReg_inLen_idle (hb : s.status.busy = false) : s.writeReg v .inLen = { s with inLen := v } :=
  if_neg (by simp [hb])

theorem State.writeReg_argType_idle (hb : s.status.busy = false) : s.writeReg v .argType = { s with argType := v } :=
  if_neg (by simp [hb])

end

/-- A turn that only records a response keeps the core. -/
theorem State.keptCore_turn (s : State) (rest : List HostOp) (r : Response) :
    s.keptCore ((s.hostTurn rest).pushResponse r) :=
  ⟨rfl, s.keptAllButStatus_refl⟩

/-- Settles O8: the write is an acceptance. -/
theorem hostStartsCommand : Obligations.HostStartsCommand := by
  intro s w rest hb hm
  have h := step_writeReg (r := .cmd) hm
  rw [State.writeReg_cmd_idle (s := s.hostTurn rest) w hb] at h
  exact ⟨_, h, ⟨rfl, rfl⟩, rfl, rfl, rfl, rfl, fun _ => rfl,
    (HostEffect.accept (s := s.hostTurn rest) w hb).keptResults⟩

/-- Settles O40: the write rule of a read-only register is the identity. -/
theorem readOnlyWritesAreIgnored : Obligations.ReadOnlyWritesAreIgnored := by
  refine ⟨fun s r v rest hr hm => ?_, fun s sp off v rest hsp ho hm =>
    ⟨_, step_writeResultBuffer hsp ho hm, ⟨rfl, rfl⟩, s.keptCore_turn rest _⟩⟩
  have hid : (s.hostTurn rest).writeReg v r = s.hostTurn rest := by
    obtain rfl | rfl | rfl | rfl | rfl | rfl | rfl | rfl | rfl | rfl | rfl := hr <;> rfl
  exact ⟨_, hid ▸ step_writeReg hm, ⟨rfl, rfl⟩, s.keptCore_turn rest _⟩

/-- Settles O42: by whether bit 2 of the word is set. -/
theorem statusWriteClearsWerr : Obligations.StatusWriteClearsWerr := by
  intro s v rest hm
  refine ⟨_, step_writeReg (r := .status) hm, ?_⟩
  simp only [State.writeReg]
  split
  · exact ⟨⟨rfl, rfl⟩, rfl, s.keptAllButStatus_refl⟩
  · exact ⟨⟨rfl, rfl⟩, s.keptCore_turn rest _⟩

/-- Settles O43: each write's own field, and the frame of its effect. -/
theorem idleWritesAreTaken : Obligations.IdleWritesAreTaken := by
  refine ⟨fun s v rest hb hm => ?_, fun s v rest hb hm => ?_, fun s off v rest hb ho hm => ?_⟩
  · have h := step_writeReg (r := .inLen) hm
    rw [State.writeReg_inLen_idle (s := s.hostTurn rest) v hb] at h
    exact ⟨_, h, ⟨rfl, rfl⟩, rfl, rfl, rfl, rfl, fun _ => rfl,
      (HostEffect.setInLen (s := s.hostTurn rest) v hb).keptResults⟩
  · have h := step_writeReg (r := .argType) hm
    rw [State.writeReg_argType_idle (s := s.hostTurn rest) v hb] at h
    exact ⟨_, h, ⟨rfl, rfl⟩, rfl, rfl, rfl, rfl, fun _ => rfl,
      (HostEffect.setArgType (s := s.hostTurn rest) v hb).keptResults⟩
  · have h := step_writeIbuf hm ho
    rw [State.writeIbuf_idle (s := s.hostTurn rest) hb] at h
    exact ⟨_, h, ⟨rfl, rfl⟩, fun a => by simp [Memory.read_write, eq_comm], rfl, rfl, rfl, rfl,
      (HostEffect.setIbuf (s := s.hostTurn rest) v hb ho).keptResults⟩

/-! ## The race of P4 -/

/-- The completion of a CRC in progress over an input that fits. -/
theorem step_crc {s : State} (hm : s.engineMoves) (hc : s.curCmd = 0x00000006) (hn : s.inLen.toNat ≤ Config.bufSize) :
    step s = .next (State.complete { s with crcResult := crc32 (s.ibuf.slice 0 s.inLen.toNat) } .ok 0 0) := by
  have hd : decode s.curCmd = .ok .crc := by rw [hc]; decide
  rw [stepRunsDecodedCommand s _ hm hd, execCrc_ok hn]

/-- Settles O50: the host's dropped write and then the completion, or the completion and then the write that is taken.
-/
theorem writeRacesWithCompletion : Obligations.WriteRacesWithCompletion := by
  intro s v rest hb hc hn hp
  refine ⟨fun hf => ?_, fun hf => ?_⟩
  · have hwrite := step_writeReg (r := .inLen) ⟨hp, .inr (by omega)⟩
    rw [State.writeReg_busy (s := s.hostTurn rest) v hb (.inr (.inl rfl))] at hwrite
    have hcrc : step (((s.hostTurn rest).setWerr true).pushResponse .ok) = _ :=
      step_crc ⟨hb, .inl (by simp [hf])⟩ hc hn
    exact ⟨_, run_two_of_steps hwrite hcrc, rfl, rfl, rfl, rfl⟩
  · have hcrc := step_crc ⟨hb, .inl hf⟩ hc hn
    have hwrite := step_writeReg (r := .inLen) (v := v) (rest := rest)
      (s := State.complete { s with crcResult := crc32 (s.ibuf.slice 0 s.inLen.toNat) } .ok 0 0) ⟨hp, .inl rfl⟩
    rw [State.writeReg_inLen_idle v rfl] at hwrite
    exact ⟨_, run_two_of_steps hcrc hwrite, rfl, rfl, rfl, rfl⟩

/-! ## The registers -/

theorem Reg.ofOffset_eq_some_iff (off : Word) (r : Reg) : Reg.ofOffset off = some r ↔ off = r.offset :=
  ⟨Reg.eq_offset, fun h => h ▸ Reg.ofOffset_offset r⟩

/-- Settles O4: the decoding of an offset inverts `Reg.offset`. -/
theorem registerMapIsExact : Obligations.RegisterMapIsExact := by
  intro off r
  rw [Reg.ofOffset_eq_some_iff, ← BitVec.toNat_inj]
  cases r <;> rfl

/-- Where each predicate stands in the property bits of a tag (10_state.md R31). -/
theorem getLsbD_tagProps (c : CaseRule) (r : Word) :
    (tagProps c r).getLsbD 0 = isCritical c r ∧ (tagProps c r).getLsbD 1 = isPublic c r ∧
    (tagProps c r).getLsbD 2 = isReservedBitValid c r ∧ (tagProps c r).getLsbD 3 = isSafeToCopy c r := by
  simp only [tagProps, BitVec.getLsbD_append]
  simp

/-- TYPE_PROPS bit by bit: TYPE's properties from bit 0, CH_TYPE's from bit 8, and 0 elsewhere. -/
theorem getLsbD_typePropsWith (c : CaseRule) (tReg chType : Word) (i : Nat) :
    (typePropsWith c tReg chType).getLsbD i =
      if i < 4 then (tagProps c tReg).getLsbD i
      else if i < 8 then false else (tagProps c chType).getLsbD (i - 8) := by
  simp only [typePropsWith, BitVec.getLsbD_append, Nat.sub_sub]
  obtain h | h | h | h : i < 4 ∨ (4 ≤ i ∧ i < 8) ∨ (8 ≤ i ∧ i < 12) ∨ 12 ≤ i := by omega
  · rw [if_pos h, if_pos h]
  · rw [if_neg (by omega), if_pos (by omega), if_neg (by omega), if_pos h.2]
    exact BitVec.getLsbD_zero
  · rw [if_neg (by omega), if_neg (by omega), if_pos (by omega), if_neg (by omega), if_neg (by omega)]
  · rw [if_neg (by omega), if_neg (by omega), if_neg (by omega), if_neg (by omega), if_neg (by omega),
      BitVec.getLsbD_of_ge (tagProps c chType) _ (by omega)]
    exact BitVec.getLsbD_zero

theorem typePropsWith_zero (c : CaseRule) :
    typePropsWith c 0 0 = (match c with
      | .asciiClass => 0x00000000#32
      | .bit5 => 0x00000707#32) := by
  cases c <;> decide

/-- Settles O15: bit by bit, and the zero tag under both readings of CASE_RULE. -/
theorem typePropsShowsBothTags : Obligations.TypePropsShowsBothTags := by
  refine ⟨fun s => ?_, typePropsWith_zero Config.caseRule⟩
  obtain ⟨t0, t1, t2, t3⟩ := getLsbD_tagProps Config.caseRule s.tReg
  obtain ⟨c0, c1, c2, c3⟩ := getLsbD_tagProps Config.caseRule s.chType
  simp only [State.regValue, State.typeProps, getLsbD_typePropsWith]
  refine ⟨t0, t1, t2, t3, c0, c1, c2, c3, fun i hi => ?_⟩
  rw [if_neg (by omega)]
  split_ifs with h8
  · rfl
  · exact BitVec.getLsbD_of_ge _ _ (by omega)

section
variable (err : StatusCode) (typeEq chValid werr done busy : Bool)

/-- The flags of the STATUS word (10_state.md R26). -/
theorem getLsbD_statusWord_flags :
    (statusWord err typeEq chValid werr done busy).getLsbD 0 = busy ∧
    (statusWord err typeEq chValid werr done busy).getLsbD 1 = done ∧
    (statusWord err typeEq chValid werr done busy).getLsbD 2 = werr ∧
    (statusWord err typeEq chValid werr done busy).getLsbD 3 = chValid ∧
    (statusWord err typeEq chValid werr done busy).getLsbD 4 = typeEq := by
  simp only [statusWord, BitVec.getLsbD_append]
  simp

theorem getLsbD_statusWord_gap {i : Nat} (h5 : 5 ≤ i) (h8 : i < 8) :
    (statusWord err typeEq chValid werr done busy).getLsbD i = false := by
  simp only [statusWord, BitVec.getLsbD_append, Nat.sub_sub]
  rw [if_neg (by omega), if_neg (by omega), if_neg (by omega), if_neg (by omega), if_neg (by omega),
    if_pos (by omega)]
  exact BitVec.getLsbD_zero

/-- From bit 8 up the STATUS word holds the number of the code, and then 0. -/
theorem getLsbD_statusWord_err {i : Nat} (h : 8 ≤ i) :
    (statusWord err typeEq chValid werr done busy).getLsbD i = err.number.getLsbD (i - 8) := by
  simp only [statusWord, BitVec.getLsbD_append, Nat.sub_sub]
  rw [if_neg (by omega), if_neg (by omega), if_neg (by omega), if_neg (by omega), if_neg (by omega),
    if_neg (by omega)]
  split
  · rfl
  · rw [BitVec.getLsbD_of_ge err.number _ (by omega)]
    exact BitVec.getLsbD_zero

theorem extractLsb'_statusWord : (statusWord err typeEq chValid werr done busy).extractLsb' 8 4 = err.number := by
  apply BitVec.eq_of_getLsbD_eq
  intro i hi
  rw [BitVec.getLsbD_extractLsb', getLsbD_statusWord_err _ _ _ _ _ _ (Nat.le_add_right 8 i), Nat.add_sub_cancel_left]
  simp [hi]

end

/-- Settles O17: the flags, the gap below ERR, ERR, and the bits above it. -/
theorem statusWordShowsItsFields : Obligations.StatusWordShowsItsFields := by
  intro s
  obtain ⟨hbusy, hdone, hwerr, hvalid, heq⟩ := getLsbD_statusWord_flags s.status.err s.typeEq s.status.chValid
    s.status.werr s.status.done s.status.busy
  simp only [State.regValue, State.statusExact, extractLsb'_statusWord]
  refine ⟨hbusy, hdone, hwerr, hvalid, by rw [heq]; exact beq_iff_eq, by cases s.status.err <;> rfl, ?_⟩
  rintro i (hi | hi)
  · exact getLsbD_statusWord_gap _ _ _ _ _ _ hi.1 (by omega)
  · rw [getLsbD_statusWord_err _ _ _ _ _ _ (by omega)]
    exact BitVec.getLsbD_of_ge _ _ (by omega)

/-! ## Reads while idle -/

theorem State.respond_readReg (s : State) (r : Reg) :
    s.respond (.read .reg r.offset .w32) = .okWord (s.readRegValue r) := by
  simp only [State.respond, Reg.ofOffset_offset]

theorem State.readRegValue_idle {s : State} (h : s.status.busy = false) (r : Reg) : s.readRegValue r = s.regValue r :=
  if_neg (by simp [h])

/-- Settles O52: the machine is idle after reset, so each read is exact. -/
theorem resetRegisterValues : Obligations.ResetRegisterValues := by
  intro r
  rw [State.respond_readReg, State.readRegValue_idle rfl]
  cases r with
  | typeProps => exact congrArg Response.okWord (typePropsWith_zero Config.caseRule)
  | status => decide
  | _ => rfl

end Sys2Proof.Machine
end

section
/-! The responses of the host port and what a host step leaves unchanged: BUSERR exactly on an illegal access, refused
accesses, host reads, a command in progress under host steps, and the one stop of SERIALIZE. -/

namespace Sys2Proof.Machine

/-! ## Legal and refused accesses -/

/-- A 32-bit access of REG is refused exactly where no register stands (20_memory.md R65). -/
theorem Reg.ofOffset_eq_none_iff (off : Word) :
    Reg.ofOffset off = none ↔ Space.reg.legal .w32 off.toNat = false := by
  rw [← Reg.isSome_ofOffset, Option.isSome_eq_false_iff, Option.isNone_iff_eq_none]

/-- An access is refused exactly when it is not legal: in REG by the register map, in a buffer by its size. -/
theorem State.respond_eq_busErr_iff (s : State) (a : Access) : s.respond a = .busErr ↔ a.legal = false := by
  cases a with
  | read sp off w | write sp off w v =>
    cases sp with
    | ibuf | dbuf | obuf => cases w <;> simp [State.respond, Space.legal]
    | reg =>
      cases w with
      | w8 => exact iff_of_true rfl rfl
      | w32 => cases h : Reg.ofOffset off <;> simp [State.respond, h, ← Reg.isSome_ofOffset]

/-- Settles O38: by the space and the width of the access. -/
theorem busErrorExactlyOnIllegalAccess : Obligations.BusErrorExactlyOnIllegalAccess :=
  State.respond_eq_busErr_iff

/-- A legal read counts a draw, and a refused one does nothing (20_memory.md R67, R73). -/
theorem State.performAccess_read (s : State) (sp : Space) (off : Word) (w : Width) :
    s.performAccess (.read sp off w) = if sp.legal w off.toNat = false then s else s.countDraw := by
  simp only [State.performAccess, State.respond_eq_busErr_iff, Access.legal_read]

/-- A write that is not legal reaches no register and no buffer byte (R67). -/
theorem State.performAccess_write_of_not_legal (s : State) {sp : Space} {off : Word} {w : Width} (v : Word)
    (h : sp.legal w off.toNat = false) : s.performAccess (.write sp off w v) = s := by
  cases sp with
  | dbuf | obuf => rfl
  | reg =>
    cases w with
    | w8 => rfl
    | w32 => simp only [State.performAccess, (Reg.ofOffset_eq_none_iff off).2 h]
  | ibuf =>
    cases w with
    | w8 => exact if_neg (of_decide_eq_false h)
    | w32 => rfl

/-- An access that is not legal leaves the state as it was, BUSY or not (R67; log 11). -/
theorem State.performAccess_of_not_legal (s : State) {a : Access} (h : a.legal = false) : s.performAccess a = s := by
  cases a with
  | read sp off w => exact (s.performAccess_read sp off w).trans (if_pos h)
  | write sp off w v => exact s.performAccess_write_of_not_legal v h

/-- Settles O39: the response is BUSERR by the legality rule, and the host's turn is all that happens. -/
theorem refusedAccessChangesNothing : Obligations.RefusedAccessChangesNothing := by
  intro s a rest hm hlegal
  have h := step_access hm
  rw [State.performAccess_of_not_legal _ hlegal, (s.respond_eq_busErr_iff a).2 hlegal] at h
  exact ⟨_, h, ⟨rfl, rfl⟩, s.keptCore_turn rest _, rfl⟩

/-! ## Host reads -/

/-- The draw counter is no part of the core (log 5). -/
theorem State.keptCore_countDraw (s : State) : s.keptCore s.countDraw := by
  unfold State.countDraw
  split <;> exact ⟨rfl, s.keptAllButStatus_refl⟩

theorem step_read {s : State} {sp : Space} {off : Word} {w : Width} {rest : List HostOp}
    (h : s.hostMoves (.access (.read sp off w)) rest) (hlegal : (Access.read sp off w).legal = true) :
    step s = .next ((s.hostTurn rest).countDraw.pushResponse (s.respond (.read sp off w))) := by
  rw [step_access h, State.performAccess_read, if_neg (by simpa using hlegal)]

/-- Settles O45: the turn of a legal read counts a draw while BUSY, and records the response. -/
theorem hostReadHasNoSideEffect : Obligations.HostReadHasNoSideEffect := by
  intro s sp off w rest hm hlegal
  exact ⟨_, _, step_read hm hlegal, ⟨by simp, by simp⟩, rfl, (s.hostTurn rest).keptCore_countDraw,
    (s.hostTurn rest).countDraw_draws⟩

/-! ## A command in progress under host steps (20_memory.md R77) -/

/-- What a host step may not change of a command in progress: everything of the core but WERR. -/
def State.keptButWerr (s t : State) : Prop :=
  t.status = { s.status with werr := t.status.werr } ∧ s.keptAllButStatus t

theorem State.keptButWerr_refl (s : State) : s.keptButWerr s := ⟨rfl, s.keptAllButStatus_refl⟩

section
variable {s t u : State}

/-- Every clause is an equation of a field or of a buffer's bytes. -/
theorem State.keptAllButStatus_trans (h : s.keptAllButStatus t) (h' : t.keptAllButStatus u) :
    s.keptAllButStatus u := by
  simp only [State.keptAllButStatus, State.keptInputs, State.keptTag, State.keptSlot, State.keptOut,
    State.keptInfo, Memory.sameBytes] at h h' ⊢
  simp only [h', h, implies_true, and_self]

theorem State.keptButWerr_trans (h : s.keptButWerr t) (h' : t.keptButWerr u) : s.keptButWerr u := by
  obtain ⟨hstatus, hkept⟩ := h
  obtain ⟨hstatus', hkept'⟩ := h'
  refine ⟨?_, State.keptAllButStatus_trans hkept hkept'⟩
  rw [hstatus', hstatus]

end

/-- Settles O47: while BUSY the host moves only while its count is not 0, and its step changes WERR alone. -/
theorem commandInProgressIsUntouched : Obligations.CommandInProgressIsUntouched := by
  intro s t op rest hb hm hop hstep
  obtain rfl : s.hostStep = t :=
    Host.Outcome.next.inj ((step_host (State.engineTurn_of_hostMoves hm)).symm.trans hstep)
  obtain ⟨hp, hturn⟩ := hm
  have hfirst : s.hostFirst ≠ 0 := hturn.resolve_left (by simp [hb])
  obtain ⟨hstatus, hkept, hcount, -⟩ := State.hostStep_busy hb hp hop
  exact ⟨hstatus, hkept, by omega⟩

/-- A host step while BUSY brings no reset event among those that go before the completion. -/
theorem State.noReset_hostStep {s : State} {op : HostOp} {rest : List HostOp} {n : Nat} (hb : s.status.busy = true)
    (hp : s.pending = op :: rest) (hno : ∀ o ∈ s.pending.take (n + 1), o ≠ .reset) :
    ∀ o ∈ s.hostStep.pending.take n, o ≠ .reset := by
  rw [hp] at hno
  obtain ⟨-, -, -, e | e⟩ := State.hostStep_busy hb hp (hno op (by simp)) <;> rw [e] <;> intro o ho
  · exact hno o (List.mem_cons_of_mem _ ho)
  · exact hno o (List.take_subset_take_left _ n.le_succ ho)

/-- Settles O48: by induction on the number of host steps that go before the completion. -/
theorem hostStepsDoNotChangeTheResult : Obligations.HostStepsDoNotChangeTheResult := by
  intro s hb hno
  induction hn : s.hostFirst generalizing s with
  | zero => exact ⟨0, s, le_rfl, rfl, ⟨hb, .inl hn⟩, s.keptButWerr_refl⟩
  | succ n ih =>
    rw [hn] at hno
    cases hp : s.pending with
    | nil => exact ⟨0, s, Nat.zero_le _, rfl, ⟨hb, .inr hp⟩, s.keptButWerr_refl⟩
    | cons op rest =>
      have hop : op ≠ .reset := hno op (by simp [hp])
      have hm : s.hostMoves op rest := ⟨hp, .inr (by omega)⟩
      have hstep := step_host (State.engineTurn_of_hostMoves hm)
      obtain ⟨hstatus, hkept, hcount⟩ := commandInProgressIsUntouched s _ op rest hb hm hop hstep
      have hfirst : s.hostStep.hostFirst = n := by omega
      have hbusy : s.hostStep.status.busy = true := by rw [hstatus]; exact hb
      obtain ⟨k, t, hk, hrun, hmoves, hrest⟩ :=
        ih s.hostStep hbusy (hfirst.symm ▸ State.noReset_hostStep hb hp hno) hfirst
      exact ⟨k + 1, t, by omega, (run_succ_of_step hstep k).trans hrun, hmoves,
        State.keptButWerr_trans ⟨hstatus, hkept⟩ hrest⟩

/-! ## The stop of SERIALIZE -/

theorem execSerialize_fault {s : State} (hv : s.status.chValid = true) (hl : Config.bufSize < s.chLength.toNat) :
    exec .serialize s = .fault .bufferRange := by
  simp only [exec, execSerialize, hv, Bool.true_eq_false, if_false, State.engineRange, if_neg (Nat.not_le.2 hl)]

/-- Settles O30: a fault is no next state, and a valid slot longer than BUF_SIZE is all that a command stops at. -/
theorem serializeStopsOnlyOutsideBuffers : Obligations.SerializeStopsOnlyOutsideBuffers := by
  refine fun s => ⟨fun h => ?_, fun ⟨hv, hl⟩ => execSerialize_fault hv hl⟩
  exact (exec_stops_only fun t => by rw [h]; nofun).2

end Sys2Proof.Machine
end

section
/-! The encoding family (30_encoding.md): the decoder answers a command exactly on that command's own word, and the turn
of POLL. -/

namespace Sys2Proof

/-! ## The decoder and the encoder -/

theorem decode_encode (i : Instr) : decode (encode i) = .ok i := by
  cases i <;> decide

/-- R92 by the two fields of a word. -/
theorem decode_eq_ok_iff_fields (w : Word) (i : Instr) :
    decode w = .ok i ↔ rsvdField w = 0 ∧ opcField w = opcodeOf i := by
  constructor
  · intro h
    obtain ⟨j, hj, hrsvd, hopc⟩ | ⟨r, hr⟩ := decode_cases w
    · obtain rfl : j = i := Except.ok.inj (hj.symm.trans h)
      exact ⟨hrsvd, hopc⟩
    · cases hr.symm.trans h
  · rintro ⟨hrsvd, hopc⟩
    rw [word_of_fields hrsvd hopc, decode_encode]

theorem decode_eq_ok_iff (w : Word) (i : Instr) : decode w = .ok i ↔ w = encode i := by
  refine ⟨fun h => ?_, fun h => h ▸ decode_encode i⟩
  obtain ⟨hrsvd, hopc⟩ := (decode_eq_ok_iff_fields w i).1 h
  exact word_of_fields hrsvd hopc

theorem decode_eq_ok_iff_toNat (w : Word) (i : Instr) : decode w = .ok i ↔ w.toNat = (opcodeOf i).toNat := by
  rw [decode_eq_ok_iff, ← BitVec.toNat_inj, toNat_encode]

/-- The opcode map uses 1 to 6 (R91). -/
theorem toNat_opcodeOf_range (i : Instr) : 1 ≤ (opcodeOf i).toNat ∧ (opcodeOf i).toNat ≤ 6 := by
  cases i <;> decide

/-- The illegal words of R94, as numbers. -/
theorem decode_rejects_of_toNat {w : Word} (h : w.toNat = 0 ∨ 7 ≤ w.toNat) : ∃ r, decode w = .error r := by
  obtain ⟨i, hi, -⟩ | hr := decode_cases w
  · have hw := (decode_eq_ok_iff_toNat w i).1 hi
    have := toNat_opcodeOf_range i
    omega
  · exact hr

/-- Settles O2: the fields of a raw command's word are its own, and the opcode map gives the number. -/
theorem decodeMatchesExactlyOneRow : Obligations.DecodeMatchesExactlyOneRow := by
  intro c i
  rw [decode_eq_ok_iff_fields, rsvdField_word, opcField_word, ← BitVec.toNat_inj (x := c.opc)]
  cases i <;> rfl

/-- Settles O3: a word decodes to a command exactly when it is that command's word. -/
theorem decodeInvertsEncode : Obligations.DecodeInvertsEncode :=
  ⟨fun i _ => decode_encode i, fun w i => (decode_eq_ok_iff w i).1⟩

/-- Settles O1: the six words of the table are the encodings of the commands; the illegal three are computed. -/
theorem decodeReadsTableWords : Obligations.DecodeReadsTableWords :=
  ⟨decode_encode .tfraw, decode_encode .tftext, decode_encode .encode, decode_encode .decode,
    decode_encode .serialize, decode_encode .crc, by decide, by decide, by decide⟩

end Sys2Proof

namespace Sys2Proof.Machine

/-! ## The completion by the number in CUR_CMD -/

theorem step_of_opcode {s : State} {i : Instr} (hm : s.engineMoves) (h : s.curCmd.toNat = (opcodeOf i).toNat) :
    step s = exec i s :=
  stepRunsDecodedCommand s i hm ((decode_eq_ok_iff_toNat s.curCmd i).2 h)

theorem step_of_reject {s : State} {r : DecodeReject} (hm : s.engineMoves) (h : decode s.curCmd = .error r) :
    step s = .next (s.complete .illegalCmd s.curCmd 0) := by
  rw [step_engine (State.engineTurn_of_moves hm), completion_of_reject h]

theorem State.reports_complete (s : State) (code : StatusCode) (i0 i1 : Word) :
    s.reports (s.complete code i0 i1) code i0 i1 :=
  ⟨rfl, rfl, rfl, rfl, rfl, rfl⟩

/-- Settles O6: the numbers 1 to 6 are the opcodes of the commands, and the decoder rejects every other word. -/
theorem completionDecodesCurCmd : Obligations.CompletionDecodesCurCmd := by
  intro s hm
  refine ⟨step_of_opcode (i := .tfraw) hm, step_of_opcode (i := .tftext) hm, step_of_opcode (i := .encode) hm,
    step_of_opcode (i := .decode) hm, step_of_opcode (i := .serialize) hm, step_of_opcode (i := .crc) hm,
    fun h => ?_⟩
  obtain ⟨r, hr⟩ := decode_rejects_of_toNat h
  exact ⟨_, step_of_reject hm hr, s.reports_complete ..⟩

/-! ## POLL -/

/-- BUSY is exact in every read of STATUS (70_reset_and_hazards.md R264). -/
theorem State.getLsbD_readRegValue_status (s : State) : (s.readRegValue .status).getLsbD 0 = s.status.busy := by
  cases hb : s.status.busy with
  | true =>
    have hread : s.readRegValue .status = s.statusWhileBusy (Config.freeWord s.draws) := if_pos hb
    rw [hread, ← hb]
    exact (getLsbD_statusWord_flags ..).1
  | false =>
    rw [State.readRegValue_idle hb, ← hb]
    exact (getLsbD_statusWord_flags ..).1

theorem step_poll {s : State} {rest : List HostOp} (h : s.hostMoves .poll rest) :
    step s = .next (((s.hostTurn (if s.pollAgain then .poll :: rest else rest)).countDraw).pushResponse
      (.okWord (s.readRegValue .status))) := by
  rw [step_host (State.engineTurn_of_hostMoves h), State.hostStep_poll h.1]

/-- Settles O46: POLL's turn is a read of STATUS, whose bit 0 is exact and decides what is left of the program. -/
theorem pollRepeatsWhileBusy : Obligations.PollRepeatsWhileBusy := by
  intro s rest hm
  exact ⟨_, _, step_poll hm, s.respond_readReg .status, by simp, s.getLsbD_readRegValue_status,
    State.countDraw_pending _, (s.hostTurn _).keptCore_countDraw⟩

end Sys2Proof.Machine
end

section
/-! The type-tag family (40_type_tag.md): the reason mask of TFTEXT condition by condition, the four predicates by the
bits of the tag, and what TFRAW and TFTEXT write. -/

namespace Sys2Proof.Machine

/-! ## Characters -/

theorem asciiUpper_iff (b : Byte) : asciiUpper b = true ↔ 0x41 ≤ b.toNat ∧ b.toNat ≤ 0x5A := by
  simp [asciiUpper]

theorem asciiLower_iff (b : Byte) : asciiLower b = true ↔ 0x61 ≤ b.toNat ∧ b.toNat ≤ 0x7A := by
  simp [asciiLower]

theorem letter_iff (b : Byte) :
    letter b = true ↔ (0x41 ≤ b.toNat ∧ b.toNat ≤ 0x5A) ∨ (0x61 ≤ b.toNat ∧ b.toNat ≤ 0x7A) := by
  rw [letter, Bool.or_eq_true, asciiUpper_iff, asciiLower_iff]

theorem nonAsciiByte_iff (b : Byte) : nonAsciiByte b = true ↔ 0x80 ≤ b.toNat := by
  simp [nonAsciiByte]

theorem continuesChar_iff (b : Byte) : continuesChar b = true ↔ 0x80 ≤ b.toNat ∧ b.toNat ≤ 0xBF := by
  simp [continuesChar]

/-! ## The reason mask (R124) -/

/-- Where each condition stands in the mask. -/
theorem getLsbD_textCheckWith (u : TextLenUnit) (f : List Byte → Bool) (t : List Byte) :
    (textCheckWith u f t).getLsbD 0 = textNonAscii t ∧ (textCheckWith u f t).getLsbD 1 = textWrongLen u t ∧
    (textCheckWith u f t).getLsbD 2 = textNonAlpha f t := by
  simp only [textCheckWith, BitVec.getLsbD_append]
  simp

theorem textNonAscii_iff (t : List Byte) : textNonAscii t = true ↔ ∃ b ∈ t, 0x80 ≤ b.toNat := by
  simp only [textNonAscii, List.any_eq_true, nonAsciiByte_iff]

theorem textWrongLen_iff (u : TextLenUnit) (t : List Byte) : textWrongLen u t = true ↔ textCount u t ≠ 4 :=
  bne_iff_ne

theorem textCount_chars (t : List Byte) :
    textCount .chars t = t.countP (fun b => decide (¬(0x80 ≤ b.toNat ∧ b.toNat ≤ 0xBF))) := by
  rw [textCount, ← List.countP_eq_length_filter]
  simp only [← continuesChar_iff, Bool.not_eq_true, Bool.decide_eq_false]

theorem textNonAlpha_iff (f : List Byte → Bool) (t : List Byte) :
    textNonAlpha f t = true ↔
      (∃ b ∈ t, b.toNat < 0x80 ∧
        ¬((0x41 ≤ b.toNat ∧ b.toNat ≤ 0x5A) ∨ (0x61 ≤ b.toNat ∧ b.toNat ≤ 0x7A))) ∨
      ((∃ b ∈ t, 0x80 ≤ b.toNat) ∧ f t = true) := by
  simp only [textNonAlpha, Bool.or_eq_true, Bool.and_eq_true, List.any_eq_true, Bool.not_eq_true', ← Bool.not_eq_true,
    textNonAscii_iff, nonAsciiByte_iff, letter_iff, Nat.not_le]

/-- Settles O12: each bit is its condition, and each condition its reading in numbers. -/
theorem textCheckMaskBits : Obligations.TextCheckMaskBits := by
  refine ⟨fun u f t => ?_, fun _ => rfl⟩
  obtain ⟨hascii, hlen, halpha⟩ := getLsbD_textCheckWith u f t
  rw [hascii, hlen, halpha]
  refine ⟨textNonAscii_iff t, ?_, textNonAlpha_iff f t⟩
  rw [textWrongLen_iff]
  cases u with
  | bytes => exact Iff.rfl
  | chars => rw [textCount_chars]

theorem textCheckWith_eq_zero_iff (u : TextLenUnit) (f : List Byte → Bool) (t : List Byte) :
    textCheckWith u f t = 0 ↔ textNonAscii t = false ∧ textWrongLen u t = false ∧ textNonAlpha f t = false := by
  obtain ⟨hascii, hlen, halpha⟩ := getLsbD_textCheckWith u f t
  rw [← hascii, ← hlen, ← halpha]
  constructor
  · intro h
    simp [h]
  · rintro ⟨h0, h1, h2⟩
    apply BitVec.eq_of_getLsbD_eq
    intro i hi
    rw [BitVec.ofNat_eq_ofNat, BitVec.getLsbD_zero]
    match i, hi with
    | 0, _ => exact h0
    | 1, _ => exact h1
    | 2, _ => exact h2

/-- In a text of letters no byte continues a character, so both units count its bytes. -/
theorem textCount_of_letters (u : TextLenUnit) {t : List Byte} (h : ∀ b ∈ t, letter b = true) :
    textCount u t = t.length := by
  cases u with
  | bytes => rfl
  | chars =>
    rw [textCount_chars, List.countP_eq_length]
    intro b hb
    have hl := (letter_iff b).1 (h b hb)
    exact decide_eq_true (by omega)

/-- Conditions NONASCII and NONALPHA both fail exactly on a text of letters, whatever NONASCII_NONALPHA is. -/
theorem textNonAscii_textNonAlpha_eq_false_iff (f : List Byte → Bool) (t : List Byte) :
    (textNonAscii t = false ∧ textNonAlpha f t = false) ↔ ∀ b ∈ t, letter b = true := by
  rw [← Bool.not_eq_true, ← Bool.not_eq_true, textNonAscii_iff, textNonAlpha_iff]
  constructor
  · rintro ⟨hascii, halpha⟩ b hb
    rw [letter_iff]
    by_contra hl
    have hlt : b.toNat < 0x80 := Nat.lt_of_not_le fun h => hascii ⟨b, hb, h⟩
    exact halpha (.inl ⟨b, hb, hlt, hl⟩)
  · intro h
    have hascii : ¬∃ b ∈ t, 0x80 ≤ b.toNat := by
      rintro ⟨b, hb, hge⟩
      have hl := (letter_iff b).1 (h b hb)
      omega
    refine ⟨hascii, ?_⟩
    rintro (⟨b, hb, -, hl⟩ | ⟨hge, -⟩)
    · exact hl ((letter_iff b).1 (h b hb))
    · exact hascii hge

/-- R125 in terms of `letter`. -/
theorem textCheckWith_eq_zero_iff_letters (u : TextLenUnit) (f : List Byte → Bool) (t : List Byte) :
    textCheckWith u f t = 0 ↔ t.length = 4 ∧ ∀ b ∈ t, letter b = true := by
  have hlen (h : ∀ b ∈ t, letter b = true) : textWrongLen u t = false ↔ t.length = 4 := by
    rw [← Bool.not_eq_true, textWrongLen_iff, textCount_of_letters u h, not_not]
  rw [textCheckWith_eq_zero_iff, and_left_comm, textNonAscii_textNonAlpha_eq_false_iff]
  exact and_congr_left hlen

/-- Settles O13: the mask is 0 exactly for four letters, and a letter is a byte of the two ranges. -/
theorem textCheckZeroMeansFourLetters : Obligations.TextCheckZeroMeansFourLetters := by
  intro u f t
  simp only [textCheckWith_eq_zero_iff_letters, letter_iff]

/-! ## The tag predicates -/

/-- Byte `i` of a tag stands at bits 31 - 8i to 24 - 8i (10_state.md R42). -/
theorem tagByte_eq (r : Word) {i : Nat} (h : i < 4) : tagByte r i = r.extractLsb' (24 - 8 * i) 8 := by
  match i, h with
  | 0, _ | 1, _ | 2, _ | 3, _ => rfl

theorem toNat_tagByte (r : Word) {i : Nat} (h : i < 4) : (tagByte r i).toNat = r.toNat / 2 ^ (24 - 8 * i) % 256 := by
  rw [tagByte_eq r h, BitVec.extractLsb'_toNat, Nat.shiftRight_eq_div_pow]

theorem getLsbD_tagByte_five (r : Word) {i : Nat} (h : i < 4) : (tagByte r i).getLsbD 5 = r.getLsbD (29 - 8 * i) := by
  rw [tagByte_eq r h, BitVec.getLsbD_extractLsb', show 24 - 8 * i + 5 = 29 - 8 * i by omega]
  rfl

theorem tagByte_mem (r : Word) {i : Nat} (h : i < 4) : tagByte r i ∈ bytes32 r := by
  rw [tagByte, List.getD_eq_getElem _ _ h]
  exact List.getElem_mem _

theorem upper_asciiClass_tagByte_iff (r : Word) {i : Nat} (h : i < 4) :
    upper .asciiClass (tagByte r i) = true ↔
      0x41 ≤ r.toNat / 2 ^ (24 - 8 * i) % 256 ∧ r.toNat / 2 ^ (24 - 8 * i) % 256 ≤ 0x5A := by
  rw [← toNat_tagByte r h]
  exact asciiUpper_iff _

theorem upper_bit5_tagByte (r : Word) {i : Nat} (h : i < 4) :
    upper .bit5 (tagByte r i) = !r.getLsbD (29 - 8 * i) :=
  congrArg (!·) (getLsbD_tagByte_five r h)

/-- Settles O14: each predicate is `upper` or `lower` of its byte, which stands at fixed bits of the tag. -/
theorem tagPredicatesReadOneByte : Obligations.TagPredicatesReadOneByte := by
  intro r
  have hlower : isSafeToCopy .asciiClass r = true ↔ 0x61 ≤ r.toNat % 256 ∧ r.toNat % 256 ≤ 0x7A := by
    have hbyte : (tagByte r 3).toNat = r.toNat % 256 := by simp [toNat_tagByte r (i := 3)]
    rw [← hbyte]
    exact asciiLower_iff _
  have hcritical := upper_asciiClass_tagByte_iff r (i := 0) (by omega)
  rw [Nat.mod_eq_of_lt (by omega)] at hcritical
  exact ⟨hcritical, upper_asciiClass_tagByte_iff r (i := 1) (by omega),
    upper_asciiClass_tagByte_iff r (i := 2) (by omega), hlower,
    upper_bit5_tagByte r (i := 0) (by omega), upper_bit5_tagByte r (i := 1) (by omega),
    upper_bit5_tagByte r (i := 2) (by omega), getLsbD_tagByte_five r (i := 3) (by omega)⟩

/-! ## The two readings of CASE_RULE -/

theorem getLsbD_five_iff (b : Byte) : b.getLsbD 5 = true ↔ b.toNat / 32 % 2 = 1 := by
  rw [BitVec.getLsbD, Nat.testBit_eq_decide_div_mod_eq, decide_eq_true_iff]

/-- On a letter, bit 5 is the case. -/
theorem lower_bit5_of_letter {b : Byte} (h : letter b = true) : lower .bit5 b = lower .asciiClass b := by
  rw [Bool.eq_iff_iff]
  change b.getLsbD 5 = true ↔ asciiLower b = true
  rw [letter_iff] at h
  rw [getLsbD_five_iff, asciiLower_iff]
  omega

theorem upper_bit5_of_letter {b : Byte} (h : letter b = true) : upper .bit5 b = upper .asciiClass b := by
  rw [Bool.eq_iff_iff]
  change (!b.getLsbD 5) = true ↔ asciiUpper b = true
  rw [letter_iff] at h
  rw [Bool.not_eq_true', ← Bool.not_eq_true, getLsbD_five_iff, asciiUpper_iff]
  omega

theorem tagProps_eq_of_letters {r : Word} (h : ∀ b ∈ bytes32 r, letter b = true) :
    tagProps .asciiClass r = tagProps .bit5 r := by
  have hletter (i : Nat) (hi : i < 4) : letter (tagByte r i) = true := h _ (tagByte_mem r hi)
  have hupper (i : Nat) (hi : i < 4) : upper .bit5 (tagByte r i) = upper .asciiClass (tagByte r i) :=
    upper_bit5_of_letter (hletter i hi)
  have hlower : lower .bit5 (tagByte r 3) = lower .asciiClass (tagByte r 3) :=
    lower_bit5_of_letter (hletter 3 (by omega))
  simp only [tagProps, isCritical, isPublic, isReservedBitValid, isSafeToCopy, hupper 0 (by omega),
    hupper 1 (by omega), hupper 2 (by omega), hlower]

/-! ## The commands -/

/-- The frame of a completion that writes TYPE and TEXT_ERR and nothing else. -/
theorem State.frame_complete_tag (s : State) (tag err : Word) (code : StatusCode) (i0 i1 : Word) :
    let t := State.complete { s with tReg := tag, textErr := err } code i0 i1
    t.status.chValid = s.status.chValid ∧ s.keptInputs t ∧ t.crcResult = s.crcResult ∧ s.keptSlot t ∧
      s.keptOut t ∧ s.keptModel t :=
  ⟨rfl, ⟨rfl, rfl, rfl, fun _ => rfl⟩, rfl, ⟨rfl, rfl, rfl, fun _ => rfl⟩, ⟨rfl, fun _ => rfl⟩, rfl, rfl, rfl, rfl⟩

/-- Settles O9: TFRAW writes TYPE and completes OK. -/
theorem tfrawCopiesArgType : Obligations.TfrawCopiesArgType := by
  intro s
  obtain ⟨hvalid, hinputs, hframe⟩ := s.frame_complete_tag s.argType s.textErr .ok 0 0
  exact ⟨_, execTfraw_eq s, rfl, State.reports_complete .., hvalid, hinputs, rfl, hframe⟩

/-- Settles O10: the text is four letters, so its mask is 0 and the bytes become the tag. -/
theorem tftextAcceptsFourLetters : Obligations.TftextAcceptsFourLetters := by
  intro s hlen hletters
  have hmask : textCheck (s.ibuf.slice 0 s.inLen.toNat) = 0 := by
    rw [hlen, textCheck, textCheckWith_eq_zero_iff_letters]
    refine ⟨s.ibuf.length_slice 0 4, fun b hb => ?_⟩
    obtain ⟨i, hi, rfl⟩ := List.mem_iff_getElem.1 hb
    rw [Memory.getElem_slice, Nat.zero_add, letter_iff]
    exact hletters i (by simpa using hi)
  have htag : (be32 ((s.ibuf.slice 0 s.inLen.toNat).take 4)).toNat = s.ibuf.word32 0 := by
    rw [hlen, List.take_of_length_le (by simp), toNat_be32_slice]
  exact ⟨_, execTftext_ok (hlen ▸ Nat.le_trans (by omega) bufSize_ge) hmask, htag, rfl, State.reports_complete ..,
    s.frame_complete_tag _ 0 .ok 0 0⟩

/-- A TFTEXT that completes OK has found the mask 0, and its text is the tag. -/
theorem letters_of_execTftext_ok {s t : State} (h : exec .tftext s = .next t) (herr : t.status.err = .ok) :
    ∀ b ∈ bytes32 t.tReg, letter b = true := by
  obtain rfl | ⟨hmask, rfl⟩ | ⟨-, rfl⟩ := execTftext_cases h
  · exact absurd herr (by simp)
  · obtain ⟨hlen, hletters⟩ := (textCheckWith_eq_zero_iff_letters _ _ _).1 hmask
    rw [State.complete_tReg, List.take_of_length_le (by omega), bytes32_be32_of_length hlen]
    exact hletters
  · exact absurd herr (by simp)

/-- Settles O16: on a letter bit 5 is the case, and an accepted text is four letters. -/
theorem predicatesAgreeOnLetters : Obligations.PredicatesAgreeOnLetters :=
  ⟨fun _ h => tagProps_eq_of_letters h, fun _ _ h herr => letters_of_execTftext_ok h herr⟩

end Sys2Proof.Machine
end

section
/-! The frame family (41_frame.md): the fields of a frame and the parse step by step, then what ENCODE, DECODE and
SERIALIZE do with the slot, and that they invert each other. -/

namespace Sys2Proof.Machine

/-! ## Ranges of a buffer -/

/-- Equal ranges hold equal bytes, offset by offset. -/
theorem Memory.read_eq_of_slice_eq {m m' : Memory} {a b n : Nat} (h : m.slice a n = m'.slice b n) {i : Nat}
    (hi : i < n) : m.read (a + i) = m'.read (b + i) := by
  have hget : (m.slice a n)[i]? = (m'.slice b n)[i]? := by rw [h]
  rw [Memory.getElem?_slice, Memory.getElem?_slice, if_pos hi, if_pos hi] at hget
  exact Option.some.inj hget

theorem Memory.slice_zero_congr {m m' : Memory} {n : Nat} (h : ∀ a, a < n → m'.read a = m.read a) :
    m'.slice 0 n = m.slice 0 n :=
  Memory.slice_congr fun a ha => by simpa using h a ha

/-- Copying a range of another buffer to offset 0. -/
theorem Memory.read_writeSeq_zero_slice (m m' : Memory) (b n a : Nat) :
    (m.writeSeq 0 (m'.slice b n)).read a = if a < n then m'.read (b + a) else m.read a := by
  rw [Memory.read_writeSeq_zero, List.getD_eq_getElem?_getD, Memory.getElem?_slice]
  split_ifs <;> rfl

/-- Reading back a range written at offset 0. -/
theorem Memory.slice_writeSeq_zero (m : Memory) {vs : List Byte} {n : Nat} (h : vs.length = n) :
    (m.writeSeq 0 vs).slice 0 n = vs :=
  h ▸ m.slice_writeSeq 0 vs

theorem Memory.wf_writeSeq {m : Memory} (a : Nat) (vs : List Byte) (h : m.wf) : (m.writeSeq a vs).wf := by
  induction vs generalizing m a with
  | nil => exact h
  | cons v vs ih => exact ih (a + 1) (Memory.wf_write a v h)

/-- Writing the same range twice is writing it once, as data and not only byte by byte. -/
theorem Memory.writeSeq_zero_idem {m : Memory} (h : m.wf) (vs : List Byte) :
    (m.writeSeq 0 vs).writeSeq 0 vs = m.writeSeq 0 vs := by
  have hwf : (m.writeSeq 0 vs).wf := Memory.wf_writeSeq 0 vs h
  refine Memory.ext_read (Memory.wf_writeSeq 0 vs hwf) hwf (by simp) fun a => ?_
  rw [Memory.read_writeSeq_zero]
  rcases Nat.lt_or_ge a vs.length with ha | ha
  · rw [Memory.read_writeSeq_zero, List.getD_eq_getElem _ _ ha, List.getD_eq_getElem _ _ ha]
  · rw [List.getD_eq_default _ _ ha]

/-! ## The fields of a frame (R96) -/

section
variable (len type crc : Word) (data : List Byte)

@[simp] theorem frameLen_frameOf : frameLen (frameOf len type data crc) = len :=
  be32_bytes32 len

@[simp] theorem frameTag_frameOf : frameTag (frameOf len type data crc) = bytes32 type := rfl

@[simp] theorem frameData_frameOf : frameData (frameOf len type data crc) data.length = data := by
  have hdrop : (frameOf len type data crc).drop 8 = data ++ bytes32 crc := rfl
  rw [frameData, hdrop, List.take_left]

@[simp] theorem frameStored_frameOf : frameStored (frameOf len type data crc) data.length = crc := by
  have hdrop : (frameOf len type data crc).drop 8 = data ++ bytes32 crc := rfl
  rw [frameStored, ← List.drop_drop, hdrop, List.drop_left]
  exact be32_bytes32 crc

end

/-- A byte sequence of the right length is the frame of its own fields. -/
theorem frameOf_fields {b : List Byte} {n : Nat} (h : b.length = n + 12) :
    frameOf (frameLen b) (be32 (frameTag b)) (frameData b n) (frameStored b n) = b := by
  have hlen : bytes32 (frameLen b) = b.take 4 := bytes32_be32_of_length (by simp; omega)
  have htag : bytes32 (be32 (frameTag b)) = (b.drop 4).take 4 :=
    bytes32_be32_of_length (length_frameTag (by omega))
  have hcrc : bytes32 (frameStored b n) = (b.drop (8 + n)).take 4 := bytes32_be32_of_length (by simp; omega)
  have hrest : (b.drop (8 + n)).take 4 = b.drop (8 + n) := List.take_of_length_le (by simp; omega)
  rw [frameOf, hlen, htag, hcrc, hrest, frameData, ← List.take_add, ← List.take_add]
  exact List.take_append_drop (8 + n) b

/-- What the fields of a frame read as in a buffer that begins with it (20_memory.md R68). -/
theorem Memory.fields_of_frame {m : Memory} {len type crc : Word} {data : List Byte}
    (h : m.slice 0 (data.length + 12) = frameOf len type data crc) :
    m.word32 0 = len.toNat ∧ m.slice 4 4 = bytes32 type ∧ m.slice 8 data.length = data ∧
      m.word32 (8 + data.length) = crc.toNat := by
  refine ⟨?_, ?_, ?_, ?_⟩
  · rw [← toNat_frameLen_slice m (show 4 ≤ data.length + 12 by omega), h, frameLen_frameOf]
  · rw [← frameTag_slice m (show 8 ≤ data.length + 12 by omega), h, frameTag_frameOf]
  · rw [← frameData_slice m (show 8 + data.length ≤ data.length + 12 by omega), h, frameData_frameOf]
  · rw [← toNat_be32_slice, ← frameStored_slice m (show 12 + data.length ≤ data.length + 12 by omega), h,
      frameStored_frameOf]

/-! ## The parse, one lemma for each step that can fail (R164, R165) -/

section
variable {b : List Byte}

theorem decodeFrame_noLength (h : b.length < 4) : decodeFrame b = .bad .bufferTooShort 0 0 := by
  rw [decodeFrame, if_pos h]

theorem decodeFrame_lengthTooLarge (h4 : 4 ≤ b.length) (hlen : 0x7FFFFFFF < (frameLen b).toNat) :
    decodeFrame b = .bad .lengthTooLarge (frameLen b) 0 := by
  rw [decodeFrame, if_neg (by omega), if_pos hlen]

theorem decodeFrame_noTag (h4 : 4 ≤ b.length) (h8 : b.length < 8) (hlen : (frameLen b).toNat ≤ 0x7FFFFFFF) :
    decodeFrame b = .bad .bufferTooShort 0 0 := by
  rw [decodeFrame, if_neg (by omega), if_neg (by omega), if_pos h8]

theorem decodeFrame_incorrectLength (h8 : 8 ≤ b.length) (hlen : (frameLen b).toNat ≤ 0x7FFFFFFF)
    (hdata : b.length < 8 + (frameLen b).toNat) : decodeFrame b = .bad .incorrectLength (frameLen b) 0 := by
  rw [decodeFrame, if_neg (by omega), if_neg (by omega), if_neg (by omega), if_pos (by omega)]

theorem decodeFrame_crcFieldSize (hlen : (frameLen b).toNat ≤ 0x7FFFFFFF)
    (hdata : 8 + (frameLen b).toNat ≤ b.length) (hsize : b.length ≠ 12 + (frameLen b).toNat) :
    decodeFrame b = .bad .crcFieldSize (BitVec.ofNat 32 (b.length - 8 - (frameLen b).toNat)) 0 := by
  rw [decodeFrame, if_neg (by omega), if_neg (by omega), if_neg (by omega), if_neg (by omega), if_pos (by omega)]

theorem decodeFrame_crcMismatch (hlen : (frameLen b).toNat ≤ 0x7FFFFFFF)
    (hsize : b.length = 12 + (frameLen b).toNat)
    (hcrc : frameStored b (frameLen b).toNat ≠ crc32 (frameTag b ++ frameData b (frameLen b).toNat)) :
    decodeFrame b = .bad .crcMismatch (frameStored b (frameLen b).toNat)
      (crc32 (frameTag b ++ frameData b (frameLen b).toNat)) := by
  rw [decodeFrame, if_neg (by omega), if_neg (by omega), if_neg (by omega), if_neg (by omega), if_neg (by omega),
    if_pos hcrc]

end

/-- The frame of a chunk with its own checksum parses back into the chunk. -/
theorem decodeFrame_frameOf {len type : Word} {data : List Byte} (hdata : data.length = len.toNat)
    (hlen : len.toNat ≤ 0x7FFFFFFF) :
    decodeFrame (frameOf len type data (crc32 (bytes32 type ++ data))) =
      .frame len (bytes32 type) data (crc32 (bytes32 type ++ data)) := by
  have h := decodeFrame_of_form (b := frameOf len type data (crc32 (bytes32 type ++ data)))
  rw [frameLen_frameOf, frameTag_frameOf, length_frameOf, ← hdata, frameData_frameOf, frameStored_frameOf] at h
  exact h (hdata ▸ hlen) rfl rfl

/-- The parse accepts the frames of chunks with their own checksum and nothing else. -/
theorem decodeFrame_eq_frame_iff {b : List Byte} {len : Word} {tag data : List Byte} {stored : Word} :
    decodeFrame b = .frame len tag data stored ↔
      ∃ type, tag = bytes32 type ∧ stored = crc32 (bytes32 type ++ data) ∧ data.length = len.toNat ∧
        len.toNat ≤ 0x7FFFFFFF ∧ b = frameOf len type data stored := by
  constructor
  · intro h
    obtain ⟨rfl, rfl, rfl, hstored, hlen, hsize, hcrc⟩ := decodeFrame_frame h
    have htag : bytes32 (be32 (frameTag b)) = frameTag b := bytes32_be32_of_length (length_frameTag (by omega))
    exact ⟨be32 (frameTag b), htag.symm, htag.symm ▸ hcrc, length_frameData (by omega), hlen,
      hstored ▸ (frameOf_fields hsize).symm⟩
  · rintro ⟨type, rfl, rfl, hdata, hlen, rfl⟩
    exact decodeFrame_frameOf hdata hlen

/-- Settles O21: the length field of the frame is the chunk's length, and the parse checks it first. -/
theorem longChunkFrameIsRejected : Obligations.LongChunkFrameIsRejected := by
  intro len type crc data hlong
  have h := decodeFrame_lengthTooLarge (b := frameOf len type data crc) (by simp) (by simpa using hlong)
  rwa [frameLen_frameOf] at h

/-- Settles O26: the length field is unchanged, so the bytes after the data are the four of the checksum and `x`. -/
theorem trailingBytesAreRejected : Obligations.TrailingBytesAreRejected := by
  intro b x len tag data stored hframe hx _
  obtain ⟨rfl, -, -, -, hlen, hsize, -⟩ := decodeFrame_frame hframe
  have hfield : frameLen (b ++ x) = frameLen b := by
    rw [frameLen, List.take_append_of_le_length (by omega), frameLen]
  have hpos : 0 < x.length := List.length_pos_iff.2 hx
  have h := decodeFrame_crcFieldSize (b := b ++ x) (by rw [hfield]; exact hlen)
    (by rw [hfield, List.length_append]; omega) (by rw [hfield, List.length_append]; omega)
  rwa [hfield, List.length_append, show b.length + x.length - 8 - (frameLen b).toNat = 4 + x.length by omega] at h

/-! ## The two completions of ENCODE and DECODE -/

/-- The frame of a completion that fills the slot. -/
theorem State.frame_complete_setSlot (s : State) (len type crc : Word) (data : List Byte) :
    let t := (s.setSlot len type crc data).complete .ok 0 0
    s.reports t .ok 0 0 ∧ s.keptInputs t ∧ s.keptTag t ∧ t.crcResult = s.crcResult ∧ s.keptOut t ∧ s.keptModel t :=
  ⟨⟨rfl, rfl, rfl, rfl, rfl, rfl⟩, ⟨rfl, rfl, rfl, fun _ => rfl⟩, ⟨rfl, rfl⟩, rfl, ⟨rfl, fun _ => rfl⟩,
    rfl, rfl, rfl, rfl⟩

/-- A parse that fails is a DECODE that fails, with the same code and payload (R167). -/
theorem State.decodeFails_of_bad {s : State} {code : StatusCode} {i0 i1 : Word} (hn : s.inLen.toNat ≤ Config.bufSize)
    (h : decodeFrame (s.ibuf.slice 0 s.inLen.toNat) = .bad code i0 i1) : s.decodeFails code i0 i1 :=
  ⟨_, execDecode_bad hn h, ⟨rfl, rfl, rfl, rfl, rfl, rfl⟩, rfl, ⟨rfl, rfl, rfl, fun _ => rfl⟩, ⟨rfl, rfl⟩, rfl,
    ⟨rfl, rfl, rfl, fun _ => rfl⟩, ⟨rfl, fun _ => rfl⟩, rfl, rfl, rfl, rfl⟩

/-- Settles O20: the slot takes IN_LEN, TYPE and the input's bytes. -/
theorem encodeBuildsChunk : Obligations.EncodeBuildsChunk := by
  intro s hn
  obtain ⟨hreports, hframe⟩ := s.frame_complete_setSlot s.inLen s.tReg
    (crc32 (bytes32 s.tReg ++ s.ibuf.slice 0 s.inLen.toNat)) (s.ibuf.slice 0 s.inLen.toNat)
  refine ⟨_, execEncode_ok hn, rfl, rfl, rfl, fun a => ?_, rfl, beq_self_eq_true s.tReg, hreports, hframe⟩
  rw [State.complete_dbuf, State.setSlot_dbuf, Memory.read_writeSeq_zero_slice, Nat.zero_add]

/-! ## DECODE -/

/-- The tag and the data stand next to each other in a frame. -/
theorem Memory.slice_tag_data (m : Memory) (n : Nat) : m.slice 4 4 ++ m.slice 8 n = m.slice 4 (4 + n) :=
  m.slice_append 4 4 n

/-- The parse of a buffer's bytes in the form of R164 accepts them. -/
theorem decodeFrame_slice_of_form {m : Memory} {n : Nat} (hlen : m.word32 0 ≤ 0x7FFFFFFF) (hn : n = m.word32 0 + 12)
    (hcrc : m.word32 (8 + m.word32 0) = (crc32 (m.slice 4 (4 + m.word32 0))).toNat) :
    decodeFrame (m.slice 0 n) =
      .frame (be32 (m.slice 0 4)) (m.slice 4 4) (m.slice 8 (m.word32 0)) (be32 (m.slice (8 + m.word32 0) 4)) := by
  have h := decodeFrame_of_form (b := m.slice 0 n)
  rw [toNat_frameLen_slice m (by omega), frameLen_slice m (by omega), frameTag_slice m (by omega),
    frameData_slice m (by omega), frameStored_slice m (by omega), Memory.length_slice, Memory.slice_tag_data] at h
  exact h hlen hn (BitVec.eq_of_toNat_eq ((toNat_be32_slice _ _).trans hcrc))

/-- Settles O22: the parse accepts the frame, and the slot takes its fields. -/
theorem decodeAcceptsWellFormedFrame : Obligations.DecodeAcceptsWellFormedFrame := by
  intro s hn hlen hsize hcrc
  obtain ⟨hreports, hframe⟩ := s.frame_complete_setSlot (be32 (s.ibuf.slice 0 4)) (be32 (s.ibuf.slice 4 4))
    (be32 (s.ibuf.slice (8 + s.ibuf.word32 0) 4)) (s.ibuf.slice 8 (s.ibuf.word32 0))
  refine ⟨_, execDecode_ok hn (decodeFrame_slice_of_form hlen hsize hcrc), toNat_be32_slice _ _,
    toNat_be32_slice _ _, toNat_be32_slice _ _, fun a => ?_, rfl, hreports, hframe⟩
  rw [State.complete_dbuf, State.setSlot_dbuf, Memory.read_writeSeq_zero_slice]

/-- Settles O23: each clause is one failing step of the parse, its condition read off IBUF and IN_LEN. -/
theorem decodeReportsFirstFailingStep : Obligations.DecodeReportsFirstFailingStep := by
  intro s hn
  have hsize := s.ibuf.length_slice 0 s.inLen.toNat
  have hlen := fun h4 => toNat_frameLen_slice s.ibuf (n := s.inLen.toNat) h4
  have hfield := fun h4 => (frameLen_slice s.ibuf (n := s.inLen.toNat) h4).trans (be32_slice s.ibuf 0)
  refine ⟨fun h => ?_, fun h4 h => ?_, fun h4 h8 h => ?_, fun h8 h hdata => ?_, fun h hdata hne => ?_,
    fun h heq hcrc => ?_⟩ <;> apply State.decodeFails_of_bad hn
  · exact decodeFrame_noLength (by omega)
  · rw [← hfield h4]
    exact decodeFrame_lengthTooLarge (by omega) (by rw [hlen h4]; omega)
  · exact decodeFrame_noTag (by omega) (by omega) (by rw [hlen h4]; omega)
  · rw [← hfield (by omega)]
    exact decodeFrame_incorrectLength (by omega) (by rw [hlen (by omega)]; omega) (by rw [hlen (by omega)]; omega)
  · have hbad := decodeFrame_crcFieldSize (b := s.ibuf.slice 0 s.inLen.toNat)
    rw [hlen (by omega), hsize] at hbad
    exact hbad h hdata hne
  · have hbad := decodeFrame_crcMismatch (b := s.ibuf.slice 0 s.inLen.toNat)
    rw [hlen (by omega), hsize, frameTag_slice _ (by omega), frameData_slice _ (by omega),
      frameStored_slice _ (by omega), Memory.slice_tag_data, be32_slice] at hbad
    refine hbad h heq fun he => hcrc ?_
    rw [← he, ← be32_slice, toNat_be32_slice]

/-- A DECODE that succeeds has found in IBUF[0..IN_LEN) the frame of a chunk with its own checksum, and fills the slot
with that chunk. -/
theorem execDecode_accepted {s t : State} (h : exec .decode s = .next t) (herr : t.status.err = .ok) :
    ∃ len type data, data.length = len.toNat ∧ len.toNat ≤ 0x7FFFFFFF ∧ s.inLen.toNat = data.length + 12 ∧
      s.inLen.toNat ≤ Config.bufSize ∧
      s.ibuf.slice 0 (data.length + 12) = frameOf len type data (crc32 (bytes32 type ++ data)) ∧
      t = (s.setSlot len type (crc32 (bytes32 type ++ data)) data).complete .ok 0 0 := by
  obtain ⟨code, i0, i1, hcode, rfl⟩ | ⟨len, tag, data, stored, hn, hframe, rfl⟩ := execDecode_cases h
  · exact absurd herr hcode
  · obtain ⟨type, rfl, rfl, hdata, hlen, hb⟩ := decodeFrame_eq_frame_iff.1 hframe
    have hsize : s.inLen.toNat = data.length + 12 := by simpa using congrArg List.length hb
    exact ⟨len, type, data, hdata, hlen, hsize, hn, hsize ▸ hb, by rw [be32_bytes32]⟩

/-- Settles O24: the fields of the frame in IBUF are those of the chunk in the slot. -/
theorem acceptedFrameFillsSlot : Obligations.AcceptedFrameFillsSlot := by
  intro s t h herr
  obtain ⟨len, type, data, hdata, hlen, hsize, -, hframe, rfl⟩ := execDecode_accepted h herr
  obtain ⟨hfield, htag, hbytes, hstored⟩ := Memory.fields_of_frame hframe
  rw [hdata] at hbytes hstored hsize
  refine ⟨rfl, hfield.symm, hlen, ?_, ?_, hstored.symm, ?_, hsize⟩
  · exact (Memory.word32_of_slice htag).symm
  · exact (s.dbuf.slice_writeSeq_zero hdata).trans hbytes.symm
  · exact congrArg crc32 (congrArg₂ _ htag hbytes).symm

/-- Settles O25: a DECODE that fails clears CH_VALID alone of the slot, which SERIALIZE then finds. -/
theorem failedDecodeKeepsSlot : Obligations.FailedDecodeKeepsSlot := by
  intro s t h herr
  obtain ⟨code, i0, i1, -, rfl⟩ | ⟨len, tag, data, stored, -, -, rfl⟩ := execDecode_cases h
  · exact ⟨rfl, ⟨rfl, rfl, rfl, fun _ => rfl⟩, _, execSerialize_noChunk rfl, rfl⟩
  · exact absurd rfl herr

/-- Settles O27: the bytes before the checksum field give the same checksum, which the accepted frame holds and the
changed one does not. -/
theorem tamperedChecksumIsMismatch : Obligations.TamperedChecksumIsMismatch := by
  intro s s' t h herr hn hsame hne
  obtain ⟨-, hlen, hmax, -, -, hstored, hcrc, hsize⟩ := acceptedFrameFillsSlot s t h herr
  obtain ⟨-, -, -, -, -, -, hfits, -⟩ := execDecode_accepted h herr
  rw [hlen] at hmax hstored hcrc hsize
  rw [Memory.slice_tag_data] at hcrc
  have hlen' : s'.ibuf.word32 0 = s.ibuf.word32 0 := Memory.word32_congr fun i hi => hsame _ (by omega)
  have hbytes : s'.ibuf.slice 4 (4 + s.ibuf.word32 0) = s.ibuf.slice 4 (4 + s.ibuf.word32 0) :=
    Memory.slice_congr fun i hi => hsame _ (by omega)
  obtain ⟨-, -, -, -, -, hmismatch⟩ := decodeReportsFirstFailingStep s' (hn ▸ hfits)
  rw [hlen', hn, hbytes] at hmismatch
  exact hmismatch hmax (by omega) (by rwa [← hcrc, hstored])

/-! ## SERIALIZE -/

/-- The frame of the slot depends on its registers and on DBUF[0..CH_LENGTH) alone. -/
theorem State.slotFrame_congr {t u : State} (hlen : u.chLength = t.chLength) (htype : u.chType = t.chType)
    (hcrc : u.chCrc = t.chCrc) (hbytes : ∀ a, a < t.chLength.toNat → u.dbuf.read a = t.dbuf.read a) :
    u.slotFrame = t.slotFrame := by
  have hdbuf : u.dbuf.slice 0 t.chLength.toNat = t.dbuf.slice 0 t.chLength.toNat := Memory.slice_zero_congr hbytes
  rw [State.slotFrame, State.slotFrame, hlen, htype, hcrc, hdbuf]

/-- OUT_LEN does not wrap (log 16). -/
theorem toNat_add_twelve {len : Word} (h : len.toNat ≤ Config.bufSize) : (len + 12).toNat = len.toNat + 12 := by
  have := bufSize_le
  bv_omega

/-- The frame of a completion that writes OBUF and OUT_LEN and nothing else. -/
theorem State.frame_complete_out (s : State) (m : Memory) (len : Word) :
    let t := State.complete { s with obuf := m, outLen := len } .ok 0 0
    t.outLen = len ∧ t.obuf = m ∧ t.complete .ok 0 0 = t ∧ t.status.chValid = s.status.chValid ∧
      s.reports t .ok 0 0 ∧ s.keptInputs t ∧ s.keptTag t ∧ t.crcResult = s.crcResult ∧ s.keptSlot t ∧
      s.keptModel t :=
  ⟨rfl, rfl, rfl, rfl, ⟨rfl, rfl, rfl, rfl, rfl, rfl⟩, ⟨rfl, rfl, rfl, fun _ => rfl⟩, ⟨rfl, rfl⟩, rfl,
    ⟨rfl, rfl, rfl, fun _ => rfl⟩, rfl, rfl, rfl, rfl⟩

/-- What a SERIALIZE that succeeds writes, and its frame. -/
theorem execSerialize_writes {s : State} (hv : s.status.chValid = true) (hl : s.chLength.toNat ≤ Config.bufSize) :
    ∃ t, exec .serialize s = .next t ∧ t.outLen = s.chLength + 12 ∧
      t.obuf = s.obuf.writeSeq 0 s.slotFrame ∧ t.complete .ok 0 0 = t ∧ t.status.chValid = s.status.chValid ∧
      s.reports t .ok 0 0 ∧ s.keptInputs t ∧ s.keptTag t ∧ t.crcResult = s.crcResult ∧ s.keptSlot t ∧
      s.keptModel t :=
  ⟨_, execSerialize_ok hv hl, s.frame_complete_out ..⟩

/-- What a buffer that begins with the slot's frame reads as, field by field. -/
theorem State.fields_of_slotFrame {s : State} {m : Memory} (h : m.slice 0 (s.chLength.toNat + 12) = s.slotFrame) :
    m.word32 0 = s.chLength.toNat ∧ m.word32 4 = s.chType.toNat ∧
      (∀ a, a < s.chLength.toNat → m.read (8 + a) = s.dbuf.read a) ∧
      m.word32 (8 + s.chLength.toNat) = s.chCrc.toNat := by
  have hdata : (s.dbuf.slice 0 s.chLength.toNat).length = s.chLength.toNat := Memory.length_slice ..
  rw [← hdata] at h
  obtain ⟨hlen, htag, hbytes, hstored⟩ := Memory.fields_of_frame h
  rw [hdata] at hbytes hstored
  exact ⟨hlen, Memory.word32_of_slice htag, fun a ha => by simpa using Memory.read_eq_of_slice_eq hbytes ha, hstored⟩

/-- Settles O28: OBUF begins with the slot's frame, whose fields stand at their offsets, and is as before from there. -/
theorem serializeWritesFrame : Obligations.SerializeWritesFrame := by
  intro s hv hl
  obtain ⟨t, ht, hout, hobuf, -, hvalid, hframe⟩ := execSerialize_writes hv hl
  obtain ⟨hlen, htag, hbytes, hstored⟩ :=
    State.fields_of_slotFrame (s.obuf.slice_writeSeq_zero s.length_slotFrame)
  rw [← hobuf] at hlen htag hbytes hstored
  refine ⟨t, ht, hout ▸ toNat_add_twelve hl, hlen, htag, hbytes, hstored, fun a ha => ?_,
    hvalid.trans hv, hframe⟩
  rw [hobuf, Memory.read_writeSeq_of_ge _ _ (by rw [State.length_slotFrame]; omega)]

/-- A state that already holds what SERIALIZE writes is a fixed point of it. -/
theorem execSerialize_fixed {s : State} (hv : s.status.chValid = true) (hl : s.chLength.toNat ≤ Config.bufSize)
    (hobuf : s.obuf.writeSeq 0 s.slotFrame = s.obuf) (hout : s.outLen = s.chLength + 12)
    (hreport : s.complete .ok 0 0 = s) : exec .serialize s = .next s := by
  rw [execSerialize_ok hv hl, hobuf, ← hout]
  exact congrArg Host.Outcome.next hreport

/-- Settles O31: the slot's frame is unchanged, and writing it over itself gives the same buffer as data. -/
theorem serializeRepeats : Obligations.SerializeRepeats := by
  intro s t hi h
  obtain ⟨hv, rfl⟩ | ⟨hv, hl, -⟩ := execSerialize_cases h
  · exact execSerialize_noChunk hv
  · obtain ⟨t', ht', hout, hobuf, hreport, hvalid, -, -, -, -, hslot, -⟩ := execSerialize_writes hv hl
    obtain rfl : t = t' := Host.Outcome.next.inj (h.symm.trans ht')
    obtain ⟨hlen, htype, hcrc, hdbuf⟩ := hslot
    have hframe : t.slotFrame = s.slotFrame := State.slotFrame_congr hlen htype hcrc fun a _ => hdbuf a
    have hidem : t.obuf.writeSeq 0 t.slotFrame = t.obuf := by
      rw [hframe, hobuf, Memory.writeSeq_zero_idem hi.obuf.1]
    exact execSerialize_fixed (hvalid.trans hv) (hlen ▸ hl) hidem (hlen ▸ hout) hreport

/-! ## ENCODE, DECODE and SERIALIZE together -/

/-- The frame of a slot that was just filled. -/
theorem State.slotFrame_fillSlot (s : State) {len : Word} (type crc : Word) {data : List Byte}
    (hdata : data.length = len.toNat) :
    ((s.setSlot len type crc data).complete .ok 0 0).slotFrame = frameOf len type data crc :=
  congrArg (frameOf len type · crc) (s.dbuf.slice_writeSeq_zero hdata)

/-- ENCODE leaves a slot whose frame is that of TYPE and the input (R161). -/
theorem execEncode_slotFrame {s : State} (hn : s.inLen.toNat ≤ Config.bufSize) :
    ∃ t, exec .encode s = .next t ∧ t.status.chValid = true ∧ t.chLength = s.inLen ∧
      t.slotFrame = frameOf s.inLen s.tReg (s.ibuf.slice 0 s.inLen.toNat)
        (crc32 (bytes32 s.tReg ++ s.ibuf.slice 0 s.inLen.toNat)) :=
  ⟨_, execEncode_ok hn, rfl, rfl, s.slotFrame_fillSlot _ _ (Memory.length_slice ..)⟩

/-- SERIALIZE leaves the slot's frame in OBUF[0..OUT_LEN) (R170). -/
theorem execSerialize_slice {s : State} (hv : s.status.chValid = true) (hl : s.chLength.toNat ≤ Config.bufSize) :
    ∃ t, exec .serialize s = .next t ∧ t.status.err = .ok ∧ t.outLen.toNat = s.chLength.toNat + 12 ∧
      t.obuf.slice 0 (s.chLength.toNat + 12) = s.slotFrame := by
  obtain ⟨t, ht, hout, hobuf, -, -, ⟨herr, -⟩, -⟩ := execSerialize_writes hv hl
  exact ⟨t, ht, herr, hout ▸ toNat_add_twelve hl, by rw [hobuf, Memory.slice_writeSeq_zero _ s.length_slotFrame]⟩

/-- Settles O32: the slot that DECODE leaves has the accepted frame as its frame. -/
theorem serializeInvertsDecode : Obligations.SerializeInvertsDecode := by
  intro s t u h herr hvalid hlength htype hcrc hbytes
  obtain ⟨len, type, data, hdata, -, hsize, hfits, hframe, rfl⟩ := execDecode_accepted h herr
  have hlen : u.chLength.toNat = data.length := (congrArg BitVec.toNat hlength).trans hdata.symm
  have hslot : u.slotFrame = s.ibuf.slice 0 (data.length + 12) := by
    rw [State.slotFrame_congr hlength htype hcrc hbytes, State.slotFrame_fillSlot _ _ _ hdata, hframe]
  obtain ⟨v, hv, hok, hout, hobuf⟩ := execSerialize_slice (s := u) hvalid (by omega)
  rw [hlen, ← hsize] at hout
  rw [hlen, hslot, ← hsize] at hobuf
  exact ⟨v, hv, hok, BitVec.eq_of_toNat_eq hout, fun a ha => by simpa using Memory.read_eq_of_slice_eq hobuf ha⟩

/-- Settles O33: the bytes written are the frame of ENCODE's chunk, which the parse accepts. -/
theorem encodeSerializeDecodeRoundTrip : Obligations.EncodeSerializeDecodeRoundTrip := by
  intro s hlen hfits
  obtain ⟨t, ht, htvalid, htlen, hslot⟩ := execEncode_slotFrame (s := s) (by omega)
  obtain ⟨u, hu, -, -, hobuf⟩ := execSerialize_slice htvalid (by rw [htlen]; omega)
  refine ⟨t, u, ht, hu, fun v hsize hbytes => ?_⟩
  have hparse := decodeFrame_frameOf (type := s.tReg) (s.ibuf.length_slice 0 s.inLen.toNat) hlen
  rw [← hslot, ← hobuf, htlen, ← Memory.slice_zero_congr hbytes, ← hsize] at hparse
  refine ⟨_, execDecode_ok (by omega) hparse, rfl, rfl, rfl, be32_bytes32 _, fun a ha => ?_⟩
  rw [State.complete_dbuf, State.setSlot_dbuf, Memory.read_writeSeq_zero_slice, if_pos ha, Nat.zero_add]

/-! ## Operands alone (R175) -/

/-- What the host can see of a completion of ENCODE or DECODE that does not depend on earlier results (R175). -/
def State.sameOutcome (t t' : State) : Prop :=
  t'.status.err = t.status.err ∧ t'.info0 = t.info0 ∧ t'.info1 = t.info1 ∧ t'.status.chValid = t.status.chValid ∧
    (t.status.err = .ok → t'.chLength = t.chLength ∧ t'.chType = t.chType ∧ t'.chCrc = t.chCrc ∧
      ∀ a, a < t.chLength.toNat → t'.dbuf.read a = t.dbuf.read a)

theorem State.sameOutcome_invalidate (s s' : State) {code : StatusCode} (i0 i1 : Word) (h : code ≠ .ok) :
    ((s.setChValid false).complete code i0 i1).sameOutcome ((s'.setChValid false).complete code i0 i1) :=
  ⟨rfl, rfl, rfl, rfl, fun hok => absurd hok h⟩

theorem State.sameOutcome_fillSlot (s s' : State) {len : Word} (type crc : Word) {data : List Byte}
    (hdata : data.length = len.toNat) :
    ((s.setSlot len type crc data).complete .ok 0 0).sameOutcome
      ((s'.setSlot len type crc data).complete .ok 0 0) := by
  refine ⟨rfl, rfl, rfl, rfl, fun _ => ⟨rfl, rfl, rfl, fun a ha => ?_⟩⟩
  have hslice : (s'.dbuf.writeSeq 0 data).slice 0 len.toNat = (s.dbuf.writeSeq 0 data).slice 0 len.toNat := by
    rw [Memory.slice_writeSeq_zero _ hdata, Memory.slice_writeSeq_zero _ hdata]
  simpa using Memory.read_eq_of_slice_eq hslice ha

theorem execEncode_sameOutcome {s s' t : State} (htag : s'.tReg = s.tReg) (hn : s'.inLen = s.inLen)
    (hbytes : s'.ibuf.slice 0 s.inLen.toNat = s.ibuf.slice 0 s.inLen.toNat) (h : exec .encode s = .next t) :
    ∃ t', exec .encode s' = .next t' ∧ t.sameOutcome t' := by
  rcases Nat.lt_or_ge Config.bufSize s.inLen.toNat with hgt | hle
  · obtain rfl := Host.Outcome.next.inj ((execEncode_range hgt).symm.trans h)
    refine ⟨_, execEncode_range (hn ▸ hgt), ?_⟩
    rw [hn]
    exact s.sameOutcome_invalidate s' _ 0 (by decide)
  · obtain rfl := Host.Outcome.next.inj ((execEncode_ok hle).symm.trans h)
    refine ⟨_, execEncode_ok (hn ▸ hle), ?_⟩
    rw [htag, hn, hbytes]
    exact s.sameOutcome_fillSlot s' _ _ (Memory.length_slice ..)

theorem execDecode_sameOutcome {s s' t : State} (hn : s'.inLen = s.inLen)
    (hbytes : s'.ibuf.slice 0 s.inLen.toNat = s.ibuf.slice 0 s.inLen.toNat) (h : exec .decode s = .next t) :
    ∃ t', exec .decode s' = .next t' ∧ t.sameOutcome t' := by
  rcases Nat.lt_or_ge Config.bufSize s.inLen.toNat with hgt | hle
  · obtain rfl := Host.Outcome.next.inj ((execDecode_range hgt).symm.trans h)
    refine ⟨_, execDecode_range (hn ▸ hgt), ?_⟩
    rw [hn]
    exact s.sameOutcome_invalidate s' _ 0 (by decide)
  · have hle' : s'.inLen.toNat ≤ Config.bufSize := hn ▸ hle
    have hparse : decodeFrame (s'.ibuf.slice 0 s'.inLen.toNat) = decodeFrame (s.ibuf.slice 0 s.inLen.toNat) := by
      rw [hn, hbytes]
    cases hd : decodeFrame (s.ibuf.slice 0 s.inLen.toNat) with
    | frame len tag data stored =>
      obtain rfl := Host.Outcome.next.inj ((execDecode_ok hle hd).symm.trans h)
      obtain ⟨-, -, -, hdata, -, -⟩ := decodeFrame_eq_frame_iff.1 hd
      exact ⟨_, execDecode_ok hle' (hparse.trans hd), s.sameOutcome_fillSlot s' _ _ hdata⟩
    | bad code i0 i1 =>
      obtain rfl := Host.Outcome.next.inj ((execDecode_bad hle hd).symm.trans h)
      exact ⟨_, execDecode_bad hle' (hparse.trans hd), s.sameOutcome_invalidate s' i0 i1 (decodeFrame_bad_ne_ok hd)⟩

/-- Settles O34: the two inputs are one byte sequence, so both runs take the same branch with the same values. -/
theorem encodeDecodeDependOnOperandsAlone : Obligations.EncodeDecodeDependOnOperandsAlone := by
  intro i s s' t hi hn hread h
  have hbytes : s'.ibuf.slice 0 s.inLen.toNat = s.ibuf.slice 0 s.inLen.toNat := Memory.slice_zero_congr hread
  obtain rfl | ⟨rfl, htag⟩ := hi
  · exact execDecode_sameOutcome hn hbytes h
  · exact execEncode_sameOutcome htag hn hbytes h

end Sys2Proof.Machine
end

section
/-! The CRC family (42_crc.md): eight shift steps are one table lookup and a shift, from which the table method, the
residue of a checksum and what the command CRC writes follow. -/

namespace Sys2Proof.Machine

/-! ## Shift steps -/

/-- While only zero bits leave at the bottom, the shift steps of R201 are a plain shift. -/
theorem iterate_crcBit_of_low_zero {a : Word} {n : Nat} (h : ∀ i < n, a.getLsbD i = false) :
    crcBit^[n] a = a >>> n := by
  induction n generalizing a with
  | zero => exact (BitVec.ushiftRight_zero a).symm
  | succ n ih =>
    have hlow : ∀ i < n, (a >>> 1).getLsbD i = false := fun i hi => by
      rw [BitVec.getLsbD_ushiftRight]
      exact h (1 + i) (by omega)
    rw [Function.iterate_succ_apply, crcBit_of_even (h 0 n.succ_pos), ih hlow, ← BitVec.shiftRight_add, Nat.add_comm]

theorem setWidth_ushiftRight_eight (b : Byte) : b.setWidth 32 >>> 8 = 0#32 := by
  have := b.isLt
  bv_omega

/-- With its low byte cleared, a value only moves down. -/
theorem crcBits8_clear_low (a : Word) : crcBits8 ((a.extractLsb' 0 8).setWidth 32 ^^^ a) = a >>> 8 := by
  have hzero : ∀ i < 8, ((a.extractLsb' 0 8).setWidth 32 ^^^ a).getLsbD i = false := fun i hi => by
    simp [hi, show i < 32 by omega]
  calc crcBits8 ((a.extractLsb' 0 8).setWidth 32 ^^^ a)
    _ = ((a.extractLsb' 0 8).setWidth 32 ^^^ a) >>> 8 := iterate_crcBit_of_low_zero hzero
    _ = a >>> 8 := by rw [BitVec.ushiftRight_xor_distrib, setWidth_ushiftRight_eight, BitVec.zero_xor]

/-- The eight shift steps look up the low byte and shift the others down (R202). -/
theorem crcBits8_eq_table (a : Word) : crcBits8 a = crcTable (a.extractLsb' 0 8) ^^^ a >>> 8 := by
  rw [← crcBits8_clear_low, crcTable, ← crcBits8_xor, xor_cancel_left]

/-! ## The table method -/

theorem crcTableByte_eq_crcByte (c : Word) (b : Byte) : crcTableByte c b = crcByte c b := by
  rw [crcByte, crcBits8_eq_table, BitVec.ushiftRight_xor_distrib, setWidth_ushiftRight_eight, BitVec.xor_zero,
    BitVec.xor_comm, crcTableByte]

theorem crcTableFold_eq_crcFold (c : Word) (s : List Byte) : crcTableFold c s = crcFold c s := by
  induction s generalizing c with
  | nil => rfl
  | cons b s ih => rw [crcTableFold, crcFold, crcTableByte_eq_crcByte, ih]

/-- Settles O36: every byte step of the two methods agrees. -/
theorem tableMethodEqualsBitwise : Obligations.TableMethodEqualsBitwise := by
  refine ⟨fun s => ?_, by decide⟩
  rw [crc32Table, crc32, crcTableFold_eq_crcFold]

/-! ## The residue -/

/-- Eight shift steps over a running value and the rest of a word consume one byte of that word. -/
theorem crcBits8_xor_ushiftRight (c v : Word) (k : Nat) :
    crcBits8 (c ^^^ v >>> k) = crcByte c (v.extractLsb' k 8) ^^^ v >>> (k + 8) := by
  have hbyte : (v >>> k).extractLsb' 0 8 = v.extractLsb' k 8 := by
    rw [← BitVec.setWidth_ushiftRight_eq_extractLsb, BitVec.ushiftRight_zero,
      BitVec.setWidth_ushiftRight_eq_extractLsb]
  rw [crcBits8_xor, crcBits8_eq_table (v >>> k), hbyte, BitVec.shiftRight_add, crcByte, crcBits8_xor, crcTable,
    BitVec.xor_assoc]

/-- The loop over the four bytes of a word, low byte first, is 32 shift steps on the running value xored with it. -/
theorem crcFold_word (c v : Word) :
    crcFold c [v.extractLsb' 0 8, v.extractLsb' 8 8, v.extractLsb' 16 8, v.extractLsb' 24 8] =
      crcBits8 (crcBits8 (crcBits8 (crcBits8 (c ^^^ v)))) := by
  have hstart : c ^^^ v = c ^^^ v >>> 0 := by rw [BitVec.ushiftRight_zero]
  have hend : v >>> 32 = 0#32 := BitVec.ushiftRight_eq_zero Nat.le.refl
  rw [hstart]
  simp only [crcBits8_xor_ushiftRight, Nat.reduceAdd, hend, BitVec.xor_zero]
  rfl

/-- The residue of R201, one byte at a time. -/
theorem crcBits8_four_times_ones :
    crcBits8 (crcBits8 (crcBits8 (crcBits8 0xFFFFFFFF#32))) = 0xDEBB20E3#32 := by
  have h1 : crcBits8 0xFFFFFFFF#32 = 0x2DFD1072#32 := by decide
  have h2 : crcBits8 0x2DFD1072#32 = 0xBE26ED00#32 := by decide
  have h3 : crcBits8 0xBE26ED00#32 = 0x00BE26ED#32 := by decide
  have h4 : crcBits8 0x00BE26ED#32 = 0xDEBB20E3#32 := by decide
  rw [h1, h2, h3, h4]

/-- Settles O37: the running value cancels against the checksum, and 32 shift steps on what is left are the residue. -/
theorem checksumResidueIsConstant : Obligations.ChecksumResidueIsConstant := by
  intro s
  rw [crcFold_append, crcFold_word, crc32, xor_cancel_left, crcBits8_four_times_ones]

/-! ## The command -/

/-- The frame of a completion that writes CRC_RESULT and nothing else. -/
theorem State.frame_complete_crcResult (s : State) (v : Word) (code : StatusCode) (i0 i1 : Word) :
    let t := State.complete { s with crcResult := v } code i0 i1
    s.reports t code i0 i1 ∧ t.status.chValid = s.status.chValid ∧ s.keptInputs t ∧ s.keptTag t ∧ s.keptSlot t ∧
      s.keptOut t ∧ s.keptModel t :=
  ⟨State.reports_complete .., rfl, ⟨rfl, rfl, rfl, fun _ => rfl⟩, ⟨rfl, rfl⟩, ⟨rfl, rfl, rfl, fun _ => rfl⟩,
    ⟨rfl, fun _ => rfl⟩, rfl, rfl, rfl, rfl⟩

/-- Settles O35: an input that fits is read whole, and its checksum is all that CRC writes. -/
theorem crcChecksumsInput : Obligations.CrcChecksumsInput := fun s hn =>
  ⟨_, execCrc_ok hn, rfl, s.frame_complete_crcResult ..⟩

end Sys2Proof.Machine
end

section
/-! The exception family (60_exceptions.md): how a command can end and what its completion reports, and the completions
that change nothing but their report and CH_VALID. -/

namespace Sys2Proof

/-- The illegal words of R94, by their fields. -/
theorem decode_rejects_of_fields {w : Word}
    (h : rsvdField w ≠ 0 ∨ opcField w = 0 ∨ 7 ≤ (opcField w).toNat) : ∃ r, decode w = .error r := by
  obtain ⟨i, -, hrsvd, hopc⟩ | hr := decode_cases w
  · have hrange := toNat_opcodeOf_range i
    rw [← hopc] at hrange
    obtain h | h | h := h
    · exact absurd hrsvd h
    · simp [h] at hrange
    · omega
  · exact hr

end Sys2Proof

namespace Sys2Proof.Machine

/-! ## Completions that write CH_VALID and their report alone -/

/-- The frame of a completion that writes CH_VALID and nothing else. -/
theorem State.frame_complete_setChValid (s : State) (v : Bool) (code : StatusCode) (i0 i1 : Word) :
    let t := (s.setChValid v).complete code i0 i1
    s.reports t code i0 i1 ∧ t.status.chValid = v ∧ s.keptInputs t ∧ s.keptTag t ∧ t.crcResult = s.crcResult ∧
      s.keptSlot t ∧ s.keptOut t ∧ s.keptModel t :=
  ⟨⟨rfl, rfl, rfl, rfl, rfl, rfl⟩, rfl, ⟨rfl, rfl, rfl, fun _ => rfl⟩, ⟨rfl, rfl⟩, rfl, ⟨rfl, rfl, rfl, fun _ => rfl⟩,
    ⟨rfl, fun _ => rfl⟩, rfl, rfl, rfl, rfl⟩

/-- Settles O7: the decoder rejects the word, and the completion is its report alone. -/
theorem illegalWordCompletesWithIllegalCmd : Obligations.IllegalWordCompletesWithIllegalCmd := by
  intro s hm h
  obtain ⟨r, hr⟩ := decode_rejects_of_fields h
  exact ⟨_, step_of_reject hm hr, s.frame_complete_setChValid s.status.chValid .illegalCmd s.curCmd 0⟩

/-- Settles O29: SERIALIZE finds no chunk, and the completion is its report alone. -/
theorem serializeWithoutChunk : Obligations.SerializeWithoutChunk := by
  intro s hv
  obtain ⟨hreports, hvalid, hframe⟩ := s.frame_complete_setChValid s.status.chValid .noChunk 0 0
  exact ⟨_, execSerialize_noChunk hv, hreports, hvalid.trans hv, hframe⟩

/-- An input that does not fit, once for the four commands that read one: IN_LEN_RANGE, and CH_VALID as each of them
leaves it (R239). -/
theorem exec_inLenRange {i : Instr} {s : State} (hn : Config.bufSize < s.inLen.toNat)
    (hi : i = .tftext ∨ i = .encode ∨ i = .decode ∨ i = .crc) :
    ∃ v, exec i s = .next ((s.setChValid v).complete .inLenRange s.inLen 0) ∧
      (i = .encode ∨ i = .decode → v = false) ∧ (i = .tftext ∨ i = .crc → v = s.status.chValid) := by
  obtain rfl | rfl | rfl | rfl := hi
  · exact ⟨s.status.chValid, execTftext_range hn, by simp, fun _ => rfl⟩
  · exact ⟨false, execEncode_range hn, fun _ => rfl, by simp⟩
  · exact ⟨false, execDecode_range hn, fun _ => rfl, by simp⟩
  · exact ⟨s.status.chValid, execCrc_range hn, by simp, fun _ => rfl⟩

/-- Settles O19: the completion writes its report and CH_VALID alone. -/
theorem inputLongerThanBufferIsRefused : Obligations.InputLongerThanBufferIsRefused := by
  intro s i hn hi
  obtain ⟨v, hx, hclear, hkeep⟩ := exec_inLenRange hn hi
  obtain ⟨hreports, hvalid, hframe⟩ := s.frame_complete_setChValid v .inLenRange s.inLen 0
  exact ⟨_, hx, hreports, fun h => hvalid.trans (hclear h), fun h => hvalid.trans (hkeep h), hframe⟩

/-! ## The mask of TFTEXT -/

/-- TEXT_ERR holds the mask as it is, in its low bits (10_state.md R32). -/
theorem toNat_setWidth_mask (mask : BitVec 3) : (mask.setWidth 32).toNat = mask.toNat :=
  BitVec.toNat_setWidth_of_le (by omega)

theorem setWidth_mask_ne_zero {mask : BitVec 3} (h : mask ≠ 0) : mask.setWidth 32 ≠ (0 : Word) := fun h0 =>
  h (BitVec.eq_of_toNat_eq (by rw [← toNat_setWidth_mask, h0]; rfl))

/-- Settles O11: a text that fails its check writes its mask to TEXT_ERR and INFO0, and nothing else. -/
theorem tftextRejectsAndReportsMask : Obligations.TftextRejectsAndReportsMask := by
  intro s hn hc
  exact ⟨_, execTftext_bad hn hc, rfl, toNat_setWidth_mask _, State.reports_complete .., setWidth_mask_ne_zero hc,
    s.frame_complete_tag s.tReg _ .validation _ 0⟩

/-! ## How a command can end -/

/-- Everything that a parse of a buffer's bytes that fails can report, read off the bytes: the code of the failing step
and its payload (41_frame.md R164). -/
theorem decodeFrame_slice_bad {m : Memory} {n : Nat} {code : StatusCode} {i0 i1 : Word} (hn : n < 2 ^ 32)
    (h : decodeFrame (m.slice 0 n) = .bad code i0 i1) :
    (code = .bufferTooShort ∧ i0 = 0 ∧ i1 = 0) ∨
    (code = .lengthTooLarge ∧ i0.toNat = m.word32 0 ∧ 0x80000000 ≤ i0.toNat ∧ i1 = 0) ∨
    (code = .incorrectLength ∧ i0.toNat = m.word32 0 ∧ n < 8 + i0.toNat ∧ i1 = 0) ∨
    (code = .crcFieldSize ∧ n = 8 + m.word32 0 + i0.toNat ∧ i0.toNat ≠ 4 ∧ i1 = 0) ∨
    (code = .crcMismatch ∧ i0.toNat = m.word32 (8 + m.word32 0) ∧ i1 = crc32 (m.slice 4 (4 + m.word32 0)) ∧
      i0 ≠ i1) := by
  have hlen := fun h4 => toNat_frameLen_slice m (n := n) h4
  unfold decodeFrame at h
  rw [Memory.length_slice] at h
  split_ifs at h with h4 hbig h8 hdata hfield hcrc <;> injection h with hcode h0 h1 <;> subst hcode h0 h1
  · exact .inl ⟨rfl, rfl, rfl⟩
  · exact .inr (.inl ⟨rfl, hlen (by omega), by omega, rfl⟩)
  · exact .inl ⟨rfl, rfl, rfl⟩
  · exact .inr (.inr (.inl ⟨rfl, hlen (by omega), by omega, rfl⟩))
  · rw [hlen (by omega)] at hdata hfield ⊢
    have hsize : (BitVec.ofNat 32 (n - 8 - m.word32 0)).toNat = n - 8 - m.word32 0 := by
      rw [BitVec.toNat_ofNat, Nat.mod_eq_of_lt (by omega)]
    exact .inr (.inr (.inr (.inl ⟨rfl, by omega, by omega, rfl⟩)))
  · rw [hlen (by omega)] at hdata hfield hcrc ⊢
    rw [frameTag_slice m (by omega), frameData_slice m (by omega), Memory.slice_tag_data,
      frameStored_slice m (by omega)] at hcrc ⊢
    exact .inr (.inr (.inr (.inr ⟨rfl, toNat_be32_slice _ _, rfl, hcrc⟩)))

/-- A command reports what its completion was called with (R232). -/
theorem reports_of_exec {i : Instr} {s t u : State} {code : StatusCode} {i0 i1 : Word} (h : exec i s = .next t)
    (hx : exec i s = .next (u.complete code i0 i1)) (hwerr : u.status.werr = s.status.werr) :
    s.reports t code i0 i1 := by
  obtain rfl := Host.Outcome.next.inj (hx.symm.trans h)
  exact ⟨rfl, rfl, rfl, rfl, rfl, hwerr⟩

/-- Everything a command's completion can report: OK, or the one failure that stopped the command. -/
theorem exec_reports {i : Instr} {s t : State} (h : exec i s = .next t) :
    s.reports t .ok 0 0 ∨
    (Config.bufSize < s.inLen.toNat ∧ s.reports t .inLenRange s.inLen 0) ∨
    (t.textErr ≠ 0 ∧ s.reports t .validation t.textErr 0) ∨
    s.reports t .noChunk 0 0 ∨
    ∃ code i0 i1, decodeFrame (s.ibuf.slice 0 s.inLen.toNat) = .bad code i0 i1 ∧ s.reports t code i0 i1 := by
  by_cases hrange : Config.bufSize < s.inLen.toNat ∧ (i = .tftext ∨ i = .encode ∨ i = .decode ∨ i = .crc)
  · obtain ⟨v, hx, -⟩ := exec_inLenRange hrange.1 hrange.2
    exact .inr (.inl ⟨hrange.1, reports_of_exec h hx rfl⟩)
  · have hfits (hi : i = .tftext ∨ i = .encode ∨ i = .decode ∨ i = .crc) : s.inLen.toNat ≤ Config.bufSize :=
      Nat.not_lt.1 fun hn => hrange ⟨hn, hi⟩
    cases i with
    | tfraw => exact .inl (reports_of_exec h (execTfraw_eq s) rfl)
    | tftext =>
      have hn := hfits (by simp)
      by_cases hc : textCheck (s.ibuf.slice 0 s.inLen.toNat) = 0
      · exact .inl (reports_of_exec h (execTftext_ok hn hc) rfl)
      · obtain rfl := Host.Outcome.next.inj ((execTftext_bad hn hc).symm.trans h)
        exact .inr (.inr (.inl ⟨setWidth_mask_ne_zero hc, State.reports_complete ..⟩))
    | encode => exact .inl (reports_of_exec h (execEncode_ok (hfits (by simp))) rfl)
    | decode =>
      have hn := hfits (by simp)
      cases hd : decodeFrame (s.ibuf.slice 0 s.inLen.toNat) with
      | frame len tag data stored => exact .inl (reports_of_exec h (execDecode_ok hn hd) rfl)
      | bad code i0 i1 =>
        exact .inr (.inr (.inr (.inr ⟨code, i0, i1, rfl, reports_of_exec h (execDecode_bad hn hd) rfl⟩)))
    | serialize =>
      obtain ⟨-, rfl⟩ | ⟨-, -, rfl⟩ := execSerialize_cases h
      · exact .inr (.inr (.inr (.inl (State.reports_complete ..))))
      · exact .inl (State.reports_complete ..)
    | crc => exact .inl (reports_of_exec h (execCrc_ok (hfits (by simp))) rfl)

/-- Settles O18: an illegal word reports itself; a command reports OK or the one failure that stopped it, and where that
is the parse, the payload is read off IBUF. -/
theorem completionReportsPayload : Obligations.CompletionReportsPayload := by
  intro s t hm h
  obtain ⟨-, i, -, hx⟩ | ⟨-, -, rfl⟩ | ⟨he, -⟩ := step_cases h
  · obtain ⟨herr, h0, h1, -⟩ | ⟨hn, herr, h0, h1, -⟩ | ⟨hmask, herr, h0, h1, -⟩ | ⟨herr, h0, h1, -⟩ |
      ⟨code, i0, i1, hbad, herr, rfl, rfl, -⟩ := exec_reports hx <;> rw [herr]
    · exact ⟨h0, h1⟩
    · exact ⟨h0, h0 ▸ hn, h1⟩
    · exact ⟨h0, h0 ▸ hmask, h1⟩
    · exact ⟨h0, h1⟩
    · obtain ⟨rfl, hp⟩ | ⟨rfl, hp⟩ | ⟨rfl, hp⟩ | ⟨rfl, hp⟩ | ⟨rfl, hp⟩ :=
        decodeFrame_slice_bad s.inLen.isLt hbad <;> exact hp
  · exact ⟨rfl, rfl⟩
  · simp [State.engineTurn_of_moves hm] at he

/-! ## No step stops -/

/-- Settles O56: under the invariant every completion answers a next state, and a host step always does. -/
theorem stepNeverStops : Obligations.StepNeverStops := by
  intro s hi
  cases he : s.engineTurn with
  | true =>
    rw [step_engine he]
    exact State.completion_answers hi
  | false => exact ⟨_, step_host he⟩

end Sys2Proof.Machine
end

section
/-! The reset and hazard family (70_reset_and_hazards.md): writes that are dropped while BUSY, which reads are exact and
which are free draws, and the reset event. -/

namespace Sys2Proof.Machine

/-! ## Writes while BUSY (R265) -/

/-- The turn of a dropped write: it gets OK and sets WERR, and the rest of the core stays. -/
theorem State.droppedWrite_turn (s : State) (rest : List HostOp) :
    s.hostWentOn (((s.hostTurn rest).setWerr true).pushResponse .ok) rest .ok ∧
    (((s.hostTurn rest).setWerr true).pushResponse .ok).status = { s.status with werr := true } ∧
    s.keptAllButStatus (((s.hostTurn rest).setWerr true).pushResponse .ok) :=
  ⟨⟨rfl, rfl⟩, rfl, s.keptAllButStatus_refl⟩

/-- Settles O41: a write of a register and a write of IBUF are dropped by the same turn. -/
theorem busyWritesAreDropped : Obligations.BusyWritesAreDropped := by
  refine ⟨fun s r v rest hb hr hm => ?_, fun s off v rest hb ho hm => ?_⟩
  · have h := step_writeReg hm
    rw [State.writeReg_busy (s := s.hostTurn rest) v hb hr] at h
    exact ⟨_, h, s.droppedWrite_turn rest⟩
  · have h := step_writeIbuf hm ho
    rw [State.writeIbuf_busy (s := s.hostTurn rest) hb] at h
    exact ⟨_, h, s.droppedWrite_turn rest⟩

/-! ## Reads while BUSY and while idle (R264) -/

section
variable {s : State}

/-- A register whose read R264 leaves exact while BUSY. -/
theorem State.respond_readReg_busy_exact {r : Reg} (hb : s.status.busy = true) (hs : r ≠ .status)
    (hr : r.unspecifiedWhileBusy = false) : s.respond (.read .reg r.offset .w32) = .okWord (s.regValue r) := by
  rw [State.respond_readReg]
  simp [State.readRegValue, hb, hs, hr]

/-- A register whose read is a free draw while BUSY. -/
theorem State.respond_readReg_busy_free {r : Reg} (hb : s.status.busy = true) (hr : r.unspecifiedWhileBusy = true) :
    s.respond (.read .reg r.offset .w32) = .okWord (Config.freeWord s.draws) := by
  have hs : r ≠ .status := by rintro rfl; cases hr
  rw [State.respond_readReg]
  simp [State.readRegValue, hb, hs, hr]

theorem State.respond_readStatus_busy (hb : s.status.busy = true) :
    s.respond (.read .reg 0x08 .w32) = .okWord (s.statusWhileBusy (Config.freeWord s.draws)) :=
  (s.respond_readReg .status).trans (congrArg Response.okWord (if_pos hb))

theorem State.readResultByte_busy (hb : s.status.busy = true) (m : Memory) (a : Nat) :
    s.readResultByte m a = (Config.freeWord s.draws).setWidth 8 :=
  if_pos hb

theorem State.readResultByte_idle (hb : s.status.busy = false) (m : Memory) (a : Nat) :
    s.readResultByte m a = m.read a :=
  if_neg (by simp [hb])

end

section
variable (s : State) {off : Word}

/-- A read of IBUF is exact, BUSY or not. -/
theorem State.respond_readIbuf (h : off.toNat < Space.ibuf.size) :
    s.respond (.read .ibuf off .w8) = .okByte (s.ibuf.read off.toNat) :=
  if_pos h

theorem State.respond_readDbuf (h : off.toNat < Space.dbuf.size) :
    s.respond (.read .dbuf off .w8) = .okByte (s.readResultByte s.dbuf off.toNat) :=
  if_pos h

theorem State.respond_readObuf (h : off.toNat < Space.obuf.size) :
    s.respond (.read .obuf off .w8) = .okByte (s.readResultByte s.obuf off.toNat) :=
  if_pos h

end

/-- The reserved bits of the STATUS word (10_state.md R26). -/
theorem getLsbD_statusWord_reserved {err : StatusCode} {typeEq chValid werr done busy : Bool} {i : Nat}
    (h : (5 ≤ i ∧ i ≤ 7) ∨ (12 ≤ i ∧ i ≤ 31)) :
    (statusWord err typeEq chValid werr done busy).getLsbD i = false := by
  obtain ⟨h5, h7⟩ | ⟨h12, -⟩ := h
  · exact getLsbD_statusWord_gap _ _ _ _ _ _ h5 (by omega)
  · rw [getLsbD_statusWord_err _ _ _ _ _ _ (by omega)]
    exact BitVec.getLsbD_of_ge _ _ (by omega)

/-- Settles O44: register by register and buffer by buffer; what a read of STATUS shows is read off its word, and the
invariant gives DONE and ERR while BUSY. -/
theorem readsAreExactOrFree : Obligations.ReadsAreExactOrFree := by
  refine ⟨fun s hb => ⟨?_, ?_, ?_, ?_, fun off ho => s.respond_readIbuf ho, ?_, fun r hr => ?_,
    fun sp off hsp ho => ?_⟩, fun s hb => ⟨fun r => ?_, fun off ho => ⟨s.respond_readIbuf ho, ?_⟩, fun off ho => ?_⟩⟩
  · exact State.respond_readReg_busy_exact (r := .cap) hb nofun rfl
  · exact State.respond_readReg_busy_exact (r := .cmd) hb nofun rfl
  · exact State.respond_readReg_busy_exact (r := .inLen) hb nofun rfl
  · exact State.respond_readReg_busy_exact (r := .argType) hb nofun rfl
  · obtain ⟨hbusy, hdone, hwerr, hvalid, heq⟩ := getLsbD_statusWord_flags s.status.err
      ((Config.freeWord s.draws).getLsbD 4) ((Config.freeWord s.draws).getLsbD 3) s.status.werr s.status.done
      s.status.busy
    refine ⟨_, State.respond_readStatus_busy hb, hbusy.trans hb, hdone, hwerr, extractLsb'_statusWord .., hvalid, heq,
      fun i hi => getLsbD_statusWord_reserved hi, fun hinv => ?_⟩
    obtain ⟨hdone0, herr0⟩ := hinv.busy hb
    exact ⟨hdone.trans hdone0, (extractLsb'_statusWord ..).trans (congrArg StatusCode.number herr0)⟩
  · have hfree : r.unspecifiedWhileBusy = true := by
      obtain rfl | rfl | rfl | rfl | rfl | rfl | rfl | rfl | rfl | rfl := hr <;> rfl
    exact State.respond_readReg_busy_free hb hfree
  · obtain rfl | rfl := hsp
    · rw [s.respond_readDbuf ho, State.readResultByte_busy hb]
    · rw [s.respond_readObuf ho, State.readResultByte_busy hb]
  · rw [State.respond_readReg, State.readRegValue_idle hb]
  · rw [s.respond_readDbuf ho, State.readResultByte_idle hb]
  · rw [s.respond_readObuf ho, State.readResultByte_idle hb]

/-! ## The reset event (R260 to R262) -/

theorem step_reset {s : State} {rest : List HostOp} (h : s.hostMoves .reset rest) :
    step s = .next (s.hostTurn rest).resetEvent := by
  rw [step_host (State.engineTurn_of_hostMoves h), State.hostStep_reset h.1]

/-- A register's value does not depend on the buffers' seeds or the model's own fields, which are all that a reset event
chooses (R260). -/
theorem State.resetEvent_regValue (s : State) (r : Reg) : s.resetEvent.regValue r = State.reset.regValue r := by
  cases r <;> rfl

/-- A buffer that nothing has written since reset (R262). -/
theorem Memory.read_empty (seed a : Nat) :
    ({ seed := seed, cells := [] } : Memory).read a = Config.resetByte seed a := rfl

/-- Settles O51: the step is the reset event, whose registers are those of `State.reset` and whose buffers list no
byte. -/
theorem resetEventRestoresResetState : Obligations.ResetEventRestoresResetState := by
  intro s rest hm
  exact ⟨_, step_reset hm, rfl, rfl, rfl, rfl, rfl, rfl, rfl, rfl, rfl, rfl, rfl, rfl, rfl,
    State.resetEvent_regValue _, Memory.read_empty _, Memory.read_empty _, Memory.read_empty _, rfl, rfl, rfl⟩

end Sys2Proof.Machine
end
